-- ==== Sys2Proof/Word.lean ====
section
/-!
DEFINITION. The word types of the Huaholt-2 core: a word is 16 bits (R6), and a stored word may carry one parity bit
(R73, R74, R136, R216).
-/
namespace Sys2Proof

/-- A word, 16 bits (R6). -/
abbrev Word := BitVec 16

/-- A 32-bit value, held in two words, low word first (R8). -/
abbrev Word32 := BitVec 32

/-- A stored word with its parity bit (R73, R74, R136, R216). -/
structure ParWord where
  d : Word
  p : Bool
  deriving DecidableEq, Repr

end Sys2Proof
end

