-- ==== Sys2Proof/Machine/Tab.lean ====
section
/-!
DEFINITION. Tables: a sparse map from an index to a value, held as a list of (index, value) pairs in one canonical form
(indexes strictly rising, no entry equal to what an unlisted index reads as). Local memory, tile words, registers and
every numbered unit of the core are tables.
-/
namespace Sys2Proof.Machine

/-- A sparse table: (index, value) pairs. -/
abbrev Tab (α : Type) := List (Nat × α)

/-- The entry at an index, if one is listed. -/
def Tab.find {α : Type} : Tab α → Nat → Option α
  | [], _ => none
  | (k', v) :: m, k => if k' = k then some v else Tab.find m k

/-- Reads index `k`; `d` is what an unlisted index reads as. -/
def Tab.get {α : Type} (d : α) (m : Tab α) (k : Nat) : α := (Tab.find m k).getD d

/-- Takes every entry at index `k` out. -/
def Tab.del {α : Type} (m : Tab α) (k : Nat) : Tab α := m.filter (fun e => e.1 ≠ k)

/-- Lists `v` at index `k`, keeping rising indexes rising. -/
def Tab.put {α : Type} : Tab α → Nat → α → Tab α
  | [], k, v => [(k, v)]
  | (k', v') :: m, k, v =>
    if k' = k then (k, v) :: m
    else if k < k' then (k, v) :: (k', v') :: m
    else (k', v') :: Tab.put m k v

/-- Writes `v` at index `k`; writing what an unlisted index reads as takes the entry out. -/
def Tab.set {α : Type} [DecidableEq α] (d : α) (m : Tab α) (k : Nat) (v : α) : Tab α :=
  if v = d then Tab.del m k else Tab.put m k v

/-- The canonical form: indexes strictly rise, and no entry equals the default `d`. -/
def Tab.wf {α : Type} [DecidableEq α] (d : α) : Tab α → Bool
  | [] => true
  | (k, v) :: m => decide (v ≠ d) && m.all (fun e => decide (k < e.1)) && Tab.wf d m

/-- Writes the listed values at consecutive indexes from `k`. -/
def Tab.setList {α : Type} [DecidableEq α] (d : α) (m : Tab α) (k : Nat) : List α → Tab α
  | [] => m
  | v :: vs => Tab.setList d (Tab.set d m k v) (k + 1) vs

/-- Changes every listed value. -/
def Tab.mapVal {α β : Type} (m : Tab α) (f : α → β) : Tab β := List.map (fun e => (e.1, f e.2)) m

/-- Reads `n` consecutive entries from `k`. -/
def Tab.getList {α : Type} (d : α) (m : Tab α) (k n : Nat) : List α :=
  (List.range n).map (fun i => Tab.get d m (k + i))

end Sys2Proof.Machine
end

