-- ==== Sys2Proof/Syntax.lean ====
section
/-!
DEFINITION. The commands of the block: one constructor of `Instr` per row of the opcode table, with the row's operands.
A thread instruction names the thread that issues it; an engine's event names the engine.
-/
namespace Sys2Proof

/-- Thread index, 0 to 63 (R39). -/
abbrev Tid := Fin 64
/-- Register field: 0 to 7 name G0 to G7, 8 to 15 name L0 to L7 of the current window (R100). -/
abbrev Reg := Fin 16
/-- A 3-bit field that names L0 to L7, or G0 to G7 (R100). -/
abbrev Reg3 := Fin 8
/-- XB register number (R122). -/
abbrev Xb := Fin 4
/-- Event vector (R127). -/
abbrev Vec := Fin 16
/-- Flume end (R354). -/
abbrev EndNo := Fin 32
/-- Skidder lane (R384). -/
abbrev LaneNo := Fin 4
/-- Logical tile T0 to T7. -/
abbrev LTile := Fin 8
/-- Array A0 or A1 (R254). -/
abbrev ArrNo := Fin 2
/-- Problem slot (R257). -/
abbrev Slot := Fin 4
/-- Transfer engine TX0 or TX1 (R234). -/
abbrev EngNo := Fin 2
/-- Global core identifier, 24 bits (R17). -/
abbrev CoreId := BitVec 24
/-- World in bit 12 and tenant tag in [11:0] (R31). -/
abbrev WT := BitVec 13
/-- Far word address (R19). -/
abbrev FarAddr := BitVec 52

/-- The addressing forms of format M (R111). -/
inductive MAddr where
  | ind (ra : Reg)
  | postInc (ra : Reg)
  | preDec (ra : Reg)
  | off (ra : Reg) (imm : Word)
  deriving DecidableEq, Repr

/-- The functions that report ready by FUNCTION_READY (R504). -/
inductive Fn where
  | atp | lm | fc | flm | skd
  deriving DecidableEq, Repr

/-- The commands: one constructor per row of the opcode table. -/
inductive Instr where
  -- R105
  | add (t : Tid) (rd ra rb : Reg)
  | sub (t : Tid) (rd ra rb : Reg)
  | seq (t : Tid) (rd ra rb : Reg)
  | sne (t : Tid) (rd ra rb : Reg)
  | slt (t : Tid) (rd ra rb : Reg)
  | sltu (t : Tid) (rd ra rb : Reg)
  | sle (t : Tid) (rd ra rb : Reg)
  | sleu (t : Tid) (rd ra rb : Reg)
  | div (t : Tid) (rd ra rb : Reg)
  -- R106
  | mov (t : Tid) (rd rs : Reg)
  | and (t : Tid) (rd rs : Reg)
  | or (t : Tid) (rd rs : Reg)
  | xor (t : Tid) (rd rs : Reg)
  | shl (t : Tid) (rd rs : Reg)
  | shr (t : Tid) (rd rs : Reg)
  | sra (t : Tid) (rd rs : Reg)
  | rol (t : Tid) (rd rs : Reg)
  | not (t : Tid) (rd rs : Reg)
  | neg (t : Tid) (rd rs : Reg)
  | mul (t : Tid) (rd rs : Reg)
  | mulu (t : Tid) (rd rs : Reg)
  | divu (t : Tid) (rd rs : Reg)
  | rem (t : Tid) (rd rs : Reg)
  | remu (t : Tid) (rd rs : Reg)
  -- R108
  | addi (t : Tid) (rd : Reg) (simm : BitVec 4)
  | shli (t : Tid) (rd : Reg) (count : BitVec 4)
  | shri (t : Tid) (rd : Reg) (count : BitVec 4)
  | srai (t : Tid) (rd : Reg) (count : BitVec 4)
  | zxb (t : Tid) (rd : Reg)
  | sxb (t : Tid) (rd : Reg)
  | zxn (t : Tid) (rd : Reg)
  | sxn (t : Tid) (rd : Reg)
  | swb (t : Tid) (rd : Reg)
  | movImm (t : Tid) (rd : Reg) (imm : Word)
  | addImm (t : Tid) (rd : Reg) (imm : Word)
  | andImm (t : Tid) (rd : Reg) (imm : Word)
  | orImm (t : Tid) (rd : Reg) (imm : Word)
  | xorImm (t : Tid) (rd : Reg) (imm : Word)
  | seqImm (t : Tid) (rd : Reg) (imm : Word)
  | sltImm (t : Tid) (rd : Reg) (imm : Word)
  | sltuImm (t : Tid) (rd : Reg) (imm : Word)
  -- R110
  | adc (t : Tid) (rd rs rc : Reg)
  | sbc (t : Tid) (rd rs rc : Reg)
  -- R109, R77, R78
  | bz (t : Tid) (rs : Reg) (off : BitVec 7)
  | bnz (t : Tid) (rs : Reg) (off : BitVec 7)
  | bzL (t : Tid) (rs : Reg) (target : Word)
  | bnzL (t : Tid) (rs : Reg) (target : Word)
  | jmp (t : Tid) (target : Word)
  | jmpReg (t : Tid) (rs : Reg)
  | call (t : Tid) (target : Word)
  | callReg (t : Tid) (rs : Reg)
  | ret (t : Tid)
  -- R111
  | ld (t : Tid) (rd : Reg) (a : MAddr)
  | st (t : Tid) (rs : Reg) (a : MAddr)
  | ldP (t : Tid) (rd : Reg) (a : MAddr)
  | stP (t : Tid) (rs : Reg) (a : MAddr)
  | ldX (t : Tid) (rd : Reg) (lb gi : Reg3) (scale : BitVec 2)
  | stX (t : Tid) (rs : Reg) (lb gi : Reg3) (scale : BitVec 2)
  -- R114
  | repN (t : Tid) (count : BitVec 7)
  | repI (t : Tid) (rs : Reg)
  | repIImm (t : Tid) (imm : Word)
  -- R122
  | ldf (t : Tid) (n : Xb) (rd : Reg) (off : Word)
  | ldfP (t : Tid) (n : Xb) (rd : Reg) (off : Word)
  | stf (t : Tid) (n : Xb) (rs : Reg) (off : Word)
  | stfP (t : Tid) (n : Xb) (rs : Reg) (off : Word)
  -- R125 to R134
  | nop (t : Tid)
  | settle (t : Tid) (c : BitVec 4)
  | sync (t : Tid)
  | wait (t : Tid) (v : Vec)
  | gate (t : Tid) (n : BitVec 7)
  | eret (t : Tid)
  | dlarmA (t : Tid) (rp : Reg)
  | dlarmB (t : Tid) (rp : Reg)
  | dlarmBw (t : Tid) (rp : Reg)
  | dldisA (t : Tid)
  | dldisB (t : Tid)
  | mfc (t : Tid) (rd : Reg) (idx : BitVec 6)
  | mtc (t : Tid) (idx : BitVec 6) (rs : Reg)
  | saveh (t : Tid)
  | savel (t : Tid) (rs : Reg)
  | resth (t : Tid)
  | restl (t : Tid)
  -- R222 to R242
  | tcfgI (t : Tid) (tn : LTile) (shape : Word)
  | tcfgR (t : Tid) (tn : LTile) (rs : Reg)
  | syncT (t : Tid)
  | tget (t : Tid) (rd : Reg) (tn : LTile)
  | tld (t : Tid) (tn : LTile) (ra rs : Reg) (bzi : BitVec 6)
  | tldU (t : Tid) (tn : LTile) (ra rs : Reg)
  | tst (t : Tid) (tn : LTile) (ra rs : Reg) (bzi : BitVec 6)
  | tstU (t : Tid) (tn : LTile) (ra rs : Reg)
  | tzero (t : Tid) (tn : LTile)
  -- R281
  | mstat (t : Tid) (a : ArrNo) (tn : LTile) (shape : BitVec 3) (p : BitVec 2)
  | mstatC (t : Tid) (a : ArrNo) (rs : Reg) (shape : BitVec 3) (p : BitVec 2) (kcntM1 : BitVec 7)
  | mstream (t : Tid) (a : ArrNo) (rs : Reg)
  | mtab (t : Tid) (a : ArrNo) (tn : LTile) (p : BitVec 2)
  -- R337
  | vadd (t : Tid) (td ta tb : LTile) (bc rm : BitVec 2)
  | vsub (t : Tid) (td ta tb : LTile) (bc rm : BitVec 2)
  | vmul (t : Tid) (td ta tb : LTile) (bc rm : BitVec 2)
  | vfma (t : Tid) (td ta tb : LTile) (bc rm : BitVec 2)
  | vmax (t : Tid) (td ta tb : LTile) (bc rm : BitVec 2)
  | vmin (t : Tid) (td ta tb : LTile) (bc rm : BitVec 2)
  | vcmp (t : Tid) (td ta tb : LTile) (bc pred : BitVec 2)
  | vsel (t : Tid) (td ta tb : LTile) (rm : BitVec 2)
  | vcvt (t : Tid) (td ta : LTile) (rm : BitVec 2)
  | vexp2 (t : Tid) (td ta : LTile) (rm : BitVec 2)
  | vlog2 (t : Tid) (td ta : LTile) (rm : BitVec 2)
  | vrcp (t : Tid) (td ta : LTile) (rm : BitVec 2)
  | vrsq (t : Tid) (td ta : LTile) (rm : BitVec 2)
  | vrsum (t : Tid) (td ta : LTile) (rm : BitVec 2)
  | vrmax (t : Tid) (td ta : LTile) (rm : BitVec 2)
  | vscale (t : Tid) (td ta tb : LTile) (bc rm : BitVec 2)
  -- R358
  | sendW (t : Tid) (e : EndNo) (ln : Reg3)
  | sendE (t : Tid) (e : EndNo)
  | sendC (t : Tid) (rd : Reg) (e : EndNo)
  | recv (t : Tid) (rd : Reg) (e : EndNo)
  | recvC (t : Tid) (rd : Reg) (e : EndNo)
  | fdone (t : Tid) (e : EndNo)
  | fclose (t : Tid) (e : EndNo)
  | fland (t : Tid) (e : EndNo) (tn : LTile)
  | finfoS (t : Tid) (rd : Reg) (e : EndNo)
  | finfoN (t : Tid) (rd : Reg) (e : EndNo)
  | finfoP (t : Tid) (rd : Reg) (e : EndNo)
  -- R386
  | skid (t : Tid) (n : LaneNo) (rs : Reg)
  | skstat (t : Tid) (rd : Reg) (n : LaneNo)
  | skstop (t : Tid) (n : LaneNo)
  -- R414, R415: GATE n at ring 2, where entry n of the hardware gate table names the service
  | clockStep (t : Tid) (n : BitVec 7)
  | arrayTest (t : Tid) (n : BitVec 7)
  | seedReset (t : Tid) (n : BitVec 7)
  | freq (t : Tid) (n : BitVec 7)
  | clearTally (t : Tid) (n : BitVec 7)
  | notifyHost (t : Tid) (n : BitVec 7)
  -- thread events
  | exceptionEntry (t : Tid)
  | parkResume (t : Tid)
  | heldDispatch (t : Tid)
  | capacityWaitIssue (t : Tid)
  | muldivRetire (t : Tid) (k : Nat)
  | deadlineA (t : Tid)
  | deadlineB (t : Tid)
  | flumeStall (e : EndNo)
  | stillness
  | haltPoint (t : Tid)
  -- far path
  | farCacheHitRetire (t : Tid)
  | readLineSend
  | farRequestSend
  | farNoTarget (t : Tid)
  | mergeEntryAge (i : Nat)
  | mergeEntrySend (i : Nat)
  | frs (tag : BitVec 8) (status : BitVec 4) (data : List Word)
  -- inbound packets
  | farReadLineIn (src : CoreId) (wt : WT) (tag : BitVec 8) (addr : FarAddr)
  | farWriteBlockIn (src : CoreId) (wt : WT) (tag : BitVec 8) (addr : FarAddr) (mask : Word) (data : List Word)
  | farReadIn (src : CoreId) (wt : WT) (tag : BitVec 8) (op : BitVec 4) (addr : FarAddr) (count : Nat)
  | farWriteIn (src : CoreId) (wt : WT) (tag : BitVec 8) (addr : FarAddr) (data : List Word)
  | movWrite (src : CoreId) (wt : WT) (tag : BitVec 8) (addr : FarAddr) (data : List Word)
  | movRead (src : CoreId) (wt : WT) (tag : BitVec 8) (kind : BitVec 4) (addr : FarAddr) (countM1 : BitVec 6)
  | movData (tag : BitVec 8) (status : BitVec 4) (data : List Word)
  | movAck (tag : BitVec 8) (status : BitVec 4)
  | flmMsg (src : CoreId) (dend sendEnd : EndNo) (kind : BitVec 2) (seq : Word) (data : List Word)
  | flmClose (src : CoreId) (dend sendEnd : EndNo) (seq : Word)
  | fcrCredit (src : CoreId) (dend recvEnd : EndNo) (value : Word)
  | fcrClosed (src : CoreId) (dend recvEnd : EndNo) (why : BitVec 4) (value consumed : Word)
  | abs (src : CoreId) (cls : BitVec 4) (ident : Word)
  | atpArrival (src : CoreId) (payload : List Word)
  | packetDiscard (words : List Word)
  -- flume transport
  | flumePacketOut
  | ringSlotWrite (e : EndNo)
  | tileLandingWrite (e : EndNo)
  -- tile engines
  | tileOpStart (x : EngNo)
  | transferCycle (x : EngNo)
  | tldRetire (x : EngNo)
  | tldURetire (x : EngNo)
  | tstRetire (x : EngNo)
  | tstURetire (x : EngNo)
  | tzeroRetire (x : EngNo)
  -- arrays
  | runRead (a : ArrNo) (p : Slot)
  | fillStep (a : ArrNo)
  | mstatRetire (a : ArrNo) (p : Slot)
  | tableWrite (a : ArrNo) (p : Slot)
  | passStart (a : ArrNo) (p : Slot)
  | weightStep (a : ArrNo) (p : Slot)
  | passVerdict (a : ArrNo) (p : Slot) (laneDiffers expanderDiffers : Bool)
  | drainWrite (a : ArrNo)
  | mstreamRetire (a : ArrNo) (p : Slot)
  -- row unit
  | rowStart
  | rowRetire
  -- skidder
  | descriptorTakeUp (n : LaneNo)
  | descriptorComplete (n : LaneNo)
  | completionMessage (n : LaneNo)
  | completionMessageStall (n : LaneNo)
  -- cruise, notices
  | cruiseCheck (overwritten : Bool)
  | cruiseForcedCheck (overwritten : Bool)
  | noticeSend
  -- clocks
  | clockMonitorWindow (count : Nat)
  | reverseCountWindow (count : Nat)
  | clockSwitchComplete
  | clockSelectLock
  | clockSelectTimeout
  | bringupCdrLock
  | bringupCdrTimeout
  | freqCountDone (count : Option Word32)
  | arraySelfTestDone (a : ArrNo) (pass : Bool)
  | functionReady (f : Fn) (failed : List (BitVec 14 × BitVec 4))
  -- pins and resets
  | pwrOkFall
  | pwrOkRise
  | rstColdNAssert (trimSi : List Word)
  | rstColdNRelease (clkfA clkfB : BitVec 3)
  | rstWarmNAssert
  | rstWarmNRelease
  | trimSo
  | warmDrainComplete
  | warmDrainTimeout
  -- R103, and the drain and skidder port steps
  | undefinedEncoding (t : Tid)
  | drainRowLeave (a : ArrNo) (p : Slot)
  | skidderPortAccess (n : LaneNo)
  -- Atpolet: the queued command of this opcode starts (R448)
  | ident
  | status
  | loadBegin
  | loadWrite
  | loadEnd
  | threadStart
  | threadStop
  | threadStopDone
  | threadReset
  | threadResume
  | txnBegin
  | txnSet
  | txnCommit
  | txnCommitCycle
  | txnCommitTimeout
  | txnRollback
  | flumeBind
  | flumeUnbind
  | dbgHalt
  | dbgStep
  | dbgRead
  | dbgWrite
  | dbgBreak
  | dbgWatch
  | memRead
  | memWrite
  | tallyRead
  | faultLogRead
  | lastgaspRead
  | clockSelect (clkfA clkfB : BitVec 3)
  | clockDivide
  | freqMeasure
  | trimRead
  | trimWrite
  | coreResetWarm
  | coreClear
  | unknownOpcode
  deriving DecidableEq, Repr

end Sys2Proof
end

