-- ==== Sys2Proof/Machine/Bits.lean ====
section
/-!
DEFINITION. Bit fields, parity bits and word lists.
-/
namespace Sys2Proof.Machine

/-- Field [hi:lo] of a word as a number. -/
def fld (w : Word) (hi lo : Nat) : Nat := (w.toNat >>> lo) % 2 ^ (hi + 1 - lo)

/-- Bit `i` of a word. -/
def bit (w : Word) (i : Nat) : Bool := w.getLsbD i

/-- A word from a number, modulo 2^16. -/
def wd (n : Nat) : Word := BitVec.ofNat 16 n

/-- 1 or 0. -/
def b2n (b : Bool) : Nat := if b then 1 else 0

/-- Writes field [hi:lo] of a word. -/
def setFld (w : Word) (hi lo v : Nat) : Word :=
  let m := (2 ^ (hi + 1 - lo) - 1) <<< lo
  wd ((w.toNat - (w.toNat &&& m)) ||| ((v <<< lo) &&& m))

/-- The exclusive OR of the 16 bits of a word (R136). -/
def parityOf (w : Word) : Bool := (List.range 16).foldl (fun b i => b ^^ w.getLsbD i) false

/-- A word stored with the parity a write generates (R55, R73, R136, R216). -/
def pw (w : Word) : ParWord := ⟨w, parityOf w⟩

/-- The parity check (R73, R136). -/
def parOk (w : ParWord) : Bool := w.p == parityOf w.d

/-- The stored word 0x0000 with correct parity (R76, R137, R220). -/
def pw0 : ParWord := ⟨0, false⟩

/-- The low word and the high word of a 32-bit value (R8). -/
def lo32 (v : Word32) : Word := v.setWidth 16
def hi32 (v : Word32) : Word := (v >>> 16).setWidth 16
/-- A 32-bit value from its two words, low word first (R8). -/
def mk32 (lo hi : Word) : Word32 := (hi.setWidth 32 <<< 16) ||| lo.setWidth 32

/-- Ceiling division. -/
def cdiv (a b : Nat) : Nat := (a + b - 1) / b

/-- A 16-bit counter that stops at 0xFFFF (R174, R211). -/
def satAdd (w : Word) (n : Nat) : Word := wd (min (w.toNat + n) 0xFFFF)

/-- The words of a global core identifier, low word first (R27, R368). -/
def idLo (i : CoreId) : Word := i.setWidth 16
def idHi (i : CoreId) : Word := (i >>> 16).setWidth 16

end Sys2Proof.Machine
end

