-- ==== Sys2Proof/Decode.lean ====
section
/-!
DEFINITION. Words that spell a command. The opcode table gives bits to no row, so no word spells a command of the block by the
table's bits. The words of a thread's instruction, which the manual encodes in local memory (R99 to R103, R111, R114, R122, R227,
R281, R337, R338, R358, R386), are decoded here.
-/
namespace Sys2Proof
open Sys2Proof.Machine

/-- The command that a word spells by the table's bits: none, since the table gives bits to no row. -/
def decodeTableWord (_nbits _w : Nat) : Option Instr := none

/-! ## Fields of an instruction word (R100) -/

/-- A 4-bit register field whose lowest bit is `lo`. -/
def regAt (w : Word) (lo : Nat) : Reg := Fin.ofNat 16 (fld w (lo + 3) lo)
/-- A 3-bit register or tile field. -/
def reg3At (w : Word) (lo : Nat) : Fin 8 := Fin.ofNat 8 (fld w (lo + 2) lo)
/-- A flume end number in [4:0]. -/
def endAt (w : Word) : EndNo := Fin.ofNat 32 (fld w 4 0)
/-- A field of `n` bits whose lowest bit is `lo`. -/
def bitsAt (n : Nat) (w : Word) (lo : Nat) : BitVec n := BitVec.ofNat n (fld w (lo + n - 1) lo)
/-- The instruction, where the fields that must be zero are. -/
def whenZero (z : Nat) (i : Instr) : Option Instr := if z = 0 then some i else none

/-! ## Formats A, B, D, M, X and C (R101, R105, R106, R109, R111) -/

/-- Format A: [15:12] selects the operation (R105). -/
def decodeA (t : Tid) (op : Nat) (rd ra rb : Reg) : Option Instr :=
  match op with
  | 0 => some (.add t rd ra rb)
  | 1 => some (.sub t rd ra rb)
  | 2 => some (.seq t rd ra rb)
  | 3 => some (.sne t rd ra rb)
  | 4 => some (.slt t rd ra rb)
  | 5 => some (.sltu t rd ra rb)
  | 6 => some (.sle t rd ra rb)
  | 7 => some (.sleu t rd ra rb)
  | 8 => some (.div t rd ra rb)
  | _ => none

/-- Format D: [3:0] selects the operation (R106). -/
def decodeD (t : Tid) (func : Nat) (rd rs : Reg) : Option Instr :=
  match func with
  | 0 => some (.mov t rd rs)
  | 1 => some (.and t rd rs)
  | 2 => some (.or t rd rs)
  | 3 => some (.xor t rd rs)
  | 4 => some (.shl t rd rs)
  | 5 => some (.shr t rd rs)
  | 6 => some (.sra t rd rs)
  | 7 => some (.rol t rd rs)
  | 8 => some (.not t rd rs)
  | 9 => some (.neg t rd rs)
  | 10 => some (.mul t rd rs)
  | 11 => some (.mulu t rd rs)
  | 12 => some (.divu t rd rs)
  | 13 => some (.rem t rd rs)
  | 14 => some (.remu t rd rs)
  | _ => none

/-- The addressing form of format M (R111). -/
def decodeForm (mode : Nat) (ra : Reg) (v : Word) : MAddr :=
  match mode with
  | 0 => .ind ra
  | 1 => .postInc ra
  | 2 => .preDec ra
  | _ => .off ra v

/-- Format M (R101, R111). -/
def decodeM (t : Tid) (w v : Word) : Instr :=
  let m := decodeForm (fld w 9 8) (regAt w 0) v
  let r := regAt w 4
  match bit w 11, bit w 10 with
  | false, false => .ld t r m
  | false, true => .ldP t r m
  | true, false => .st t r m
  | true, true => .stP t r m

/-- Format C (R101). -/
def decodeC (t : Tid) (w : Word) : Option Instr :=
  whenZero (fld w 10 10) (if bit w 11 then .mtc t (bitsAt 6 w 4) (regAt w 0) else .mfc t (regAt w 0) (bitsAt 6 w 4))

/-! ## Format S (R102) -/

/-- Sub 0x4: the forms with one register. -/
def decodeOne (t : Tid) (func : Nat) (rd : Reg) : Option Instr :=
  match func with
  | 0 => some (.zxb t rd)
  | 1 => some (.sxb t rd)
  | 2 => some (.zxn t rd)
  | 3 => some (.sxn t rd)
  | 4 => some (.swb t rd)
  | _ => none

/-- Sub 0x5: the forms with imm16. -/
def decodeImm (t : Tid) (func : Nat) (rd : Reg) (v : Word) : Option Instr :=
  match func with
  | 0 => some (.movImm t rd v)
  | 1 => some (.addImm t rd v)
  | 2 => some (.andImm t rd v)
  | 3 => some (.orImm t rd v)
  | 4 => some (.xorImm t rd v)
  | 5 => some (.seqImm t rd v)
  | 6 => some (.sltImm t rd v)
  | 7 => some (.sltuImm t rd v)
  | _ => none

/-- Sub 0x6: jumps, calls, returns, long branches and context instructions. -/
def decodeJump (t : Tid) (w v : Word) : Option Instr :=
  let rs := regAt w 4
  let z := fld w 7 4
  match fld w 3 0 with
  | 0 => whenZero z (.jmp t v)
  | 1 => whenZero z (.call t v)
  | 2 => some (.jmpReg t rs)
  | 3 => some (.callReg t rs)
  | 4 => whenZero z (.ret t)
  | 5 => whenZero z (.eret t)
  | 6 => some (.bzL t rs v)
  | 7 => some (.bnzL t rs v)
  | 8 => whenZero z (.saveh t)
  | 9 => some (.savel t rs)
  | 10 => whenZero z (.resth t)
  | 11 => whenZero z (.restl t)
  | _ => none

/-- Sub 0x7: the REP prefixes (R114). -/
def decodeRep (t : Tid) (w v : Word) : Option Instr :=
  if bit w 7 then
    match fld w 6 4 with
    | 0 => some (.repI t (regAt w 0))
    | 1 => whenZero (fld w 3 0) (.repIImm t v)
    | _ => none
  else some (.repN t (bitsAt 7 w 0))

/-- A first word of a REP prefix, with its zero field zero or not (R114). -/
def repWord (w : Word) : Bool := decide (fld w 15 8 = 0xF7) && (!bit w 7 || decide (fld w 6 4 ≤ 1))

/-- Sub 0x8: the far accesses (R122). -/
def decodeFar (t : Tid) (w v : Word) : Instr :=
  let n : Xb := Fin.ofNat 4 (fld w 5 4)
  let r := regAt w 0
  match bit w 7, bit w 6 with
  | false, false => .ldf t n r v
  | false, true => .ldfP t n r v
  | true, false => .stf t n r v
  | true, true => .stfP t n r v

/-- Sub 0x9: ADC and SBC (R110). -/
def decodeCarry (t : Tid) (w v : Word) : Option Instr :=
  whenZero (fld w 7 1 + fld v 15 12)
    (if bit w 0 then .sbc t (regAt v 8) (regAt v 4) (regAt v 0) else .adc t (regAt v 8) (regAt v 4) (regAt v 0))

/-- Sub 0xA: NOP, SETTLE, SYNC and WAIT. -/
def decodeWait (t : Tid) (w : Word) : Option Instr :=
  match fld w 7 4 with
  | 0 => whenZero (fld w 3 0) (.nop t)
  | 1 => some (.settle t (bitsAt 4 w 0))
  | 2 => whenZero (fld w 3 0) (.sync t)
  | 3 => some (.wait t (regAt w 0))
  | _ => none

/-- Sub 0xC: the deadline instructions. -/
def decodeDeadline (t : Tid) (w : Word) : Option Instr :=
  let rp := regAt w 4
  match fld w 3 0 with
  | 0 => some (.dlarmA t rp)
  | 1 => some (.dlarmB t rp)
  | 2 => some (.dlarmBw t rp)
  | 3 => whenZero (fld w 7 4) (.dldisA t)
  | 4 => whenZero (fld w 7 4) (.dldisB t)
  | _ => none

/-- TLD and TST, with their unsealed forms (R227, R228). -/
def decodeMove (t : Tid) (load : Bool) (w v : Word) : Option Instr :=
  let tn := reg3At v 0
  let ra := regAt w 0
  let rs := regAt v 3
  if fld v 15 14 ≠ 0 then none
  else if bit v 13 then
    if fld v 12 7 ≠ 0x3F then none else some (if load then .tldU t tn ra rs else .tstU t tn ra rs)
  else some (if load then .tld t tn ra rs (bitsAt 6 v 7) else .tst t tn ra rs (bitsAt 6 v 7))

/-- Sub 0xD, [7:4] = 0xE: the two-word flume instructions without a register in the first word (R358). -/
def decodeFlume (t : Tid) (func : Nat) (v : Word) : Option Instr :=
  let e := endAt v
  let rd := regAt v 8
  if fld v 15 12 ≠ 0 then none
  else
    match func with
    | 0 => whenZero (fld v 11 5) (.fclose t e)
    | 1 => whenZero (fld v 11 8) (.fland t e (reg3At v 5))
    | 2 => whenZero (fld v 7 5) (.finfoS t rd e)
    | 3 => whenZero (fld v 7 5) (.finfoN t rd e)
    | 4 => whenZero (fld v 7 5) (.finfoP t rd e)
    | _ => none

/-- Sub 0xD: tile and flume instructions (R227, R358). -/
def decodeTileFlume (t : Tid) (w v : Word) : Option Instr :=
  let r := regAt w 0
  match fld w 7 4 with
  | 0 => whenZero (fld w 3 3) (.tcfgI t (reg3At w 0) v)
  | 1 => whenZero (fld v 15 3) (.tcfgR t (reg3At v 0) r)
  | 2 => whenZero (fld w 3 0) (.syncT t)
  | 3 => whenZero (fld v 15 3) (.tget t r (reg3At v 0))
  | 4 => decodeMove t true w v
  | 5 => decodeMove t false w v
  | 6 => whenZero (fld w 3 3) (.tzero t (reg3At w 0))
  | 7 => some (.sendE t (endAt (w &&& 0x000F)))
  | 8 => some (.sendE t (endAt (w &&& 0x000F ||| 0x0010)))
  | 9 => whenZero (fld v 15 5) (.sendC t r (endAt v))
  | 10 => whenZero (fld v 15 5) (.recv t r (endAt v))
  | 11 => whenZero (fld v 15 5) (.recvC t r (endAt v))
  | 12 => some (.fdone t (endAt (w &&& 0x000F)))
  | 13 => some (.fdone t (endAt (w &&& 0x000F ||| 0x0010)))
  | 14 => decodeFlume t (fld w 3 0) v
  | _ => none

/-- Sub 0xE, [7:4] = 0x5: the row unit (R337 to R339). -/
def decodeRow (t : Tid) (op : Nat) (v : Word) : Option Instr :=
  let td := reg3At v 0
  let ta := reg3At v 3
  let tb := reg3At v 6
  let bc := bitsAt 2 v 9
  let rm := bitsAt 2 v 11
  let unary := fld v 10 6
  if fld v 15 13 ≠ 0 then none
  else
    match op with
    | 0 => some (.vadd t td ta tb bc rm)
    | 1 => some (.vsub t td ta tb bc rm)
    | 2 => some (.vmul t td ta tb bc rm)
    | 3 => some (.vfma t td ta tb bc rm)
    | 4 => some (.vmax t td ta tb bc rm)
    | 5 => some (.vmin t td ta tb bc rm)
    | 6 => some (.vcmp t td ta tb bc rm)
    | 7 => whenZero bc.toNat (.vsel t td ta tb rm)
    | 8 => whenZero unary (.vcvt t td ta rm)
    | 9 => whenZero unary (.vexp2 t td ta rm)
    | 10 => whenZero unary (.vlog2 t td ta rm)
    | 11 => whenZero unary (.vrcp t td ta rm)
    | 12 => whenZero unary (.vrsq t td ta rm)
    | 13 => whenZero unary (.vrsum t td ta rm)
    | 14 => whenZero unary (.vrmax t td ta rm)
    | 15 => some (.vscale t td ta tb bc rm)
    | _ => none

/-- Sub 0xE: matrix, row-unit and skidder instructions (R281, R337, R386). -/
def decodeMatrix (t : Tid) (w v : Word) : Option Instr :=
  let rs := regAt w 0
  let a : ArrNo := Fin.ofNat 2 (fld w 3 3)
  match fld w 7 4 with
  | 0 => whenZero (fld v 15 5) (.mstat t a (reg3At w 0) (bitsAt 3 v 0) (bitsAt 2 v 3))
  | 1 => whenZero (fld v 15 13) (.mstatC t (Fin.ofNat 2 (fld v 0 0)) rs (bitsAt 3 v 1) (bitsAt 2 v 4) (bitsAt 7 v 6))
  | 2 => some (.mstream t 0 rs)
  | 3 => some (.mstream t 1 rs)
  | 4 => whenZero (fld v 15 2) (.mtab t a (reg3At w 0) (bitsAt 2 v 0))
  | 5 => decodeRow t (fld w 3 0) v
  | 6 => whenZero (fld v 15 2) (.skid t (Fin.ofNat 4 (fld v 1 0)) rs)
  | 7 => whenZero (fld v 15 2) (.skstat t rs (Fin.ofNat 4 (fld v 1 0)))
  | 8 => whenZero (fld w 3 2) (.skstop t (Fin.ofNat 4 (fld w 1 0)))
  | _ => none

/-- Format S: [11:8] selects the group (R102). -/
def decodeS (t : Tid) (w v : Word) : Option Instr :=
  let rd := regAt w 4
  match fld w 11 8 with
  | 0x0 => some (.addi t rd (bitsAt 4 w 0))
  | 0x1 => some (.shli t rd (bitsAt 4 w 0))
  | 0x2 => some (.shri t rd (bitsAt 4 w 0))
  | 0x3 => some (.srai t rd (bitsAt 4 w 0))
  | 0x4 => decodeOne t (fld w 3 0) rd
  | 0x5 => decodeImm t (fld w 3 0) rd v
  | 0x6 => decodeJump t w v
  | 0x7 => decodeRep t w v
  | 0x8 => some (decodeFar t w v)
  | 0x9 => decodeCarry t w v
  | 0xA => decodeWait t w
  | 0xB => whenZero (fld w 7 7) (.gate t (bitsAt 7 w 0))
  | 0xC => decodeDeadline t w
  | 0xD => decodeTileFlume t w v
  | 0xE => decodeMatrix t w v
  | _ => some (.sendW t (endAt w) (reg3At w 5))

/-- The instruction of thread `t` that a first word `w`, with the word `v` after it, spells: [15:12] selects the format (R101). An
encoding that is defined nowhere, or a field that must be zero and is not, is an undefined encoding (R103). -/
def decodeInstr (t : Tid) (w v : Word) : Instr :=
  let r := regAt w 8
  let f := fld w 15 12
  (if f < 9 then decodeA t f r (regAt w 4) (regAt w 0)
   else if f = 9 then some (if bit w 7 then .bnz t r (bitsAt 7 w 0) else .bz t r (bitsAt 7 w 0))
   else if f = 10 then decodeD t (fld w 3 0) r (regAt w 4)
   else if f = 11 then some (decodeM t w v)
   else if f = 12 then some (.ldX t r (reg3At w 5) (reg3At w 2) (bitsAt 2 w 0))
   else if f = 13 then some (.stX t r (reg3At w 5) (reg3At w 2) (bitsAt 2 w 0))
   else if f = 14 then decodeC t w
   else decodeS t w v).getD (.undefinedEncoding t)

/-- An undefined encoding is undefined by its second word: its first word spells an instruction with some second word, the word 0
among those (R103, R104). -/
def bySecond (t : Tid) (w : Word) : Bool := decide (decodeInstr t w 0 ≠ .undefinedEncoding t)

end Sys2Proof
end

