-- ==== Sys2Proof/Config.lean ====
section
/-!
DEFINITION. What the manual leaves open, as constants with no body: nothing in Lean can evaluate them.
-/
namespace Sys2Proof.Config

/-- Result r3 of IDENT, the revision: the manual names it and gives no number (R454). Log entry 7. -/
opaque revision : Word

/-- The distance, in halves of a unit of the last place, of a row-unit function's result from the exact one, by
operation code and FP32 operand; `Machine.devHalf` folds it into the bound of R344. Log entry 8. -/
opaque rowFnDev : Nat → Word32 → BitVec 3

/-- What a FAULT notice of ARRAY_CHECK carries for a failing column segment (0) or row segment (1) where none failed: R326
names the first failing one and states nothing for none. Log entry 6. -/
opaque noSegment : Nat → Word

/-- FADDR.PC of a gate entry, a program event, a timing-void item or a warden report whose rule names no PC: R426 leaves the
word to the rule that raises the entry. By cause code, detail, frame PC and the word that FADDR.PC held. Log entry 38. -/
opaque entryPc : BitVec 8 → BitVec 8 → Word → Word → Word

end Sys2Proof.Config
end

