-- ==== Sys2Proof/Machine/Float.lean ====
section
/-!
DEFINITION. Number formats and conversion (file 06): element types and packing, exact values, the roundings of the arrays,
the row unit and the output conversions, stochastic-rounding lanes, weight expansion and the multipass split.
-/
namespace Sys2Proof.Machine

/-! ## Element types and packing (R175 to R177) -/

/-- The eight element types, in the order of their codes (R175). -/
inductive ETy where
  | fp16 | bf16 | fp32 | int32 | int8 | uint8 | int4 | uint4
  deriving DecidableEq, Repr

/-- The type with a 3-bit code (R175). -/
def ETy.ofCode (c : Nat) : ETy :=
  match c % 8 with
  | 0 => .fp16 | 1 => .bf16 | 2 => .fp32 | 3 => .int32 | 4 => .int8 | 5 => .uint8 | 6 => .int4 | _ => .uint4

def ETy.bits : ETy → Nat
  | .fp16 | .bf16 => 16
  | .fp32 | .int32 => 32
  | .int8 | .uint8 => 8
  | .int4 | .uint4 => 4

def ETy.isFloat : ETy → Bool
  | .fp16 | .bf16 | .fp32 => true
  | _ => false

def ETy.isInt4 : ETy → Bool
  | .int4 | .uint4 => true
  | _ => false

/-- The narrow integer types, of 8 bits or fewer (R179). -/
def ETy.isNarrow : ETy → Bool
  | .int8 | .uint8 | .int4 | .uint4 => true
  | _ => false

/-- Words that a row of `e` elements occupies (R221). -/
def ETy.wpr (ty : ETy) (e : Nat) : Nat := cdiv (e * ty.bits) 16

/-- Elements per word; 1 for the types of 16 bits and more (R176). -/
def ETy.perWord (ty : ETy) : Nat := max 1 (16 / ty.bits)

/-- Words of the row that hold element `i`: the first and how many (R176). -/
def ETy.elemWords (ty : ETy) (i : Nat) : Nat × Nat :=
  if ty.bits = 32 then (2 * i, 2) else (i * ty.bits / 16, 1)

/-- The bits of element `i` of a row given by its words (R176). -/
def ETy.extract (ty : ETy) (word : Nat → Word) (i : Nat) : Nat :=
  if ty.bits = 32 then (mk32 (word (2 * i)) (word (2 * i + 1))).toNat
  else (word (i * ty.bits / 16)).toNat / 2 ^ (ty.bits * (i % (16 / ty.bits))) % 2 ^ ty.bits

/-- The words of a row packed from element bits, unused fields zero (R176, R177). -/
def ETy.packWord (ty : ETy) (elems : List Nat) (i : Nat) : Word :=
  if ty.bits = 32 then
    let v := elems.getD (i / 2) 0
    wd (if i % 2 = 0 then v else v / 2 ^ 16)
  else
    let e := 16 / ty.bits
    wd ((List.range e).foldl (fun acc j => acc + (elems.getD (i * e + j) 0 % 2 ^ ty.bits) * 2 ^ (ty.bits * j)) 0)

def ETy.pack (ty : ETy) (elems : List Nat) : List Word :=
  (List.range (ty.wpr elems.length)).map (ty.packWord elems)

/-! ## Exact values -/

/-- A value: a NaN, an infinity, or (-1)^neg × m × 2^e. -/
inductive FV where
  | nan
  | inf (neg : Bool)
  | fin (neg : Bool) (m : Nat) (e : Int)
  deriving DecidableEq, Repr

def FV.zero : FV := .fin false 0 0

def FV.ofInt (n : Int) : FV := .fin (decide (n < 0)) n.natAbs 0

def FV.isNan : FV → Bool
  | .nan => true
  | _ => false

def FV.isZero : FV → Bool
  | .fin _ m _ => m == 0
  | _ => false

def FV.isFin : FV → Bool
  | .fin .. => true
  | _ => false

def FV.abs : FV → FV
  | .nan => .nan
  | .inf _ => .inf false
  | .fin _ m e => .fin false m e

def FV.neg : FV → FV
  | .nan => .nan
  | .inf s => .inf (!s)
  | .fin s m e => .fin (!s) m e

/-- Signed mantissa. -/
def sgn (neg : Bool) (m : Nat) : Int := if neg then -(m : Int) else m

/-- The exact product (R183). -/
def FV.mul : FV → FV → FV
  | .nan, _ => .nan
  | _, .nan => .nan
  | .inf s, .inf s' => .inf (s != s')
  | .inf s, .fin s' m _ => if m = 0 then .nan else .inf (s != s')
  | .fin s m _, .inf s' => if m = 0 then .nan else .inf (s != s')
  | .fin s m e, .fin s' m' e' => .fin (s != s') (m * m') (e + e')

/-- The exact sum; a zero sum is +0 unless both operands are negative zeros (R183). -/
def FV.add : FV → FV → FV
  | .nan, _ => .nan
  | _, .nan => .nan
  | .inf s, .inf s' => if s = s' then .inf s else .nan
  | .inf s, .fin .. => .inf s
  | .fin .., .inf s => .inf s
  | .fin s m e, .fin s' m' e' =>
    let lo := min e e'
    let n := sgn s m * 2 ^ (e - lo).toNat + sgn s' m' * 2 ^ (e' - lo).toNat
    if n = 0 then .fin (s && s' && (m == 0) && (m' == 0)) 0 lo else .fin (decide (n < 0)) n.natAbs lo

/-- Order: none when either is a NaN (R342). -/
def FV.cmp : FV → FV → Option Ordering
  | .nan, _ => none
  | _, .nan => none
  | .inf s, .inf s' => some (if s = s' then .eq else if s then .lt else .gt)
  | .inf s, .fin .. => some (if s then .lt else .gt)
  | .fin .., .inf s => some (if s then .gt else .lt)
  | .fin s m e, .fin s' m' e' =>
    let lo := min e e'
    some (compare (sgn s m * 2 ^ (e - lo).toNat) (sgn s' m' * 2 ^ (e' - lo).toNat))

/-! ## Rounding (R191, R192) -/

/-- Rounding modes; `up` is the rounding toward +∞ of the checksum magnitudes (R316). -/
inductive RMode where
  | rne | rtz | sr (rnd : Nat) | up
  deriving DecidableEq, Repr

/-- Whether the magnitude goes to the next grid value: `lo` is the kept part, `rem` of 2^`sh` the discarded one (R192). -/
def roundsUp (mode : RMode) (lo rem sh : Nat) : Bool :=
  match mode with
  | .rne => decide (2 * rem > 2 ^ sh) || (decide (2 * rem = 2 ^ sh) && decide (lo % 2 = 1))
  | .rtz => false
  | .sr rnd => decide (rem * 2 ^ 16 + rnd * 2 ^ sh ≥ 2 ^ (sh + 16))
  | .up => decide (rem ≠ 0)

/-- Rounds the magnitude m × 2^e to `p` significant bits, exponent unbounded (R192). -/
def roundSig (p : Nat) (mode : RMode) (m : Nat) (e : Int) : Nat × Int :=
  let n := if m = 0 then 0 else Nat.log2 m + 1
  if n ≤ p then (m, e)
  else
    let sh := n - p
    let lo := m >>> sh
    let rem := m % 2 ^ sh
    (if roundsUp mode lo rem sh then lo + 1 else lo, e + sh)

/-- The exponent of the leading bit of m × 2^e. -/
def lead (m : Nat) (e : Int) : Int := (Nat.log2 m : Int) + e

/-- rne32 of the cells and the row unit: 24 bits, results below 2^-126 become a zero of their sign, overflow ±Infinity
(R182, R340). -/
def rne32 : FV → FV
  | .fin s m e =>
    let r := roundSig 24 .rne m e
    if r.1 = 0 then .fin s 0 0
    else if lead r.1 r.2 < -126 then .fin s 0 0
    else if lead r.1 r.2 ≥ 128 then .inf s
    else .fin s r.1 r.2
  | v => v

/-- Rounding of the checksum path: no flush, exponent unbounded below (R316). -/
def chk32 (mode : RMode) : FV → FV
  | .fin s m e =>
    let r := roundSig 24 mode m e
    if r.1 = 0 then .fin s 0 0 else if lead r.1 r.2 ≥ 128 then .inf s else .fin s r.1 r.2
  | v => v

/-- Significant bits, bias and fraction bits of a float type. -/
def ETy.prec : ETy → Nat
  | .fp16 => 11
  | .bf16 => 8
  | _ => 24
def ETy.bias : ETy → Nat
  | .fp16 => 15
  | _ => 127
def ETy.ebits : ETy → Nat
  | .fp16 => 5
  | _ => 8

/-- The value of an element of a float type, subnormals kept (R178). -/
def floatVal (ty : ETy) (b : Nat) : FV :=
  let fb := ty.prec - 1
  let frac := b % 2 ^ fb
  let ex := b / 2 ^ fb % 2 ^ ty.ebits
  let s := decide (b / 2 ^ (fb + ty.ebits) % 2 = 1)
  if ex = 2 ^ ty.ebits - 1 then (if frac = 0 then .inf s else .nan)
  else if ex = 0 then .fin s frac (1 - (ty.bias : Int) - fb)
  else .fin s (2 ^ fb + frac) ((ex : Int) - ty.bias - fb)

/-- Whether an element of a float type is subnormal (R178, R185). -/
def isSubnormal (ty : ETy) (b : Nat) : Bool :=
  ty.isFloat && decide (b / 2 ^ (ty.prec - 1) % 2 ^ ty.ebits = 0) && decide (b % 2 ^ (ty.prec - 1) ≠ 0)

/-- Two's complement value of `n` bits. -/
def toSigned (n b : Nat) : Int := if b % 2 ^ n ≥ 2 ^ (n - 1) then (b % 2 ^ n : Int) - 2 ^ n else b % 2 ^ n

/-- The integer value of an element of an integer type (R175). -/
def intVal (ty : ETy) (b : Nat) : Int :=
  match ty with
  | .uint8 => (b % 2 ^ 8 : Nat)
  | .uint4 => (b % 2 ^ 4 : Nat)
  | _ => toSigned ty.bits b

/-- An input element: its value after the flush of R185, and whether it was flushed. -/
def inVal (ty : ETy) (b : Nat) : FV × Bool :=
  if ty.isFloat then
    if isSubnormal ty b then (.fin (decide (b / 2 ^ (ty.bits - 1) % 2 = 1)) 0 0, true) else (floatVal ty b, false)
  else (.ofInt (intVal ty b), false)

/-- Bits of a float whose value is on the grid of `ty` and in its normal range, of a zero or of an infinity. -/
def encodeFloat (ty : ETy) : FV → Nat
  | .nan => (2 ^ ty.ebits - 1) * 2 ^ (ty.prec - 1) + 2 ^ (ty.prec - 2)
  | .inf s => (b2n s * 2 ^ ty.ebits + (2 ^ ty.ebits - 1)) * 2 ^ (ty.prec - 1)
  | .fin s m e =>
    if m = 0 then b2n s * 2 ^ (ty.bits - 1)
    else
      let sh := ty.prec - 1 - Nat.log2 m
      let ex := (lead m e + ty.bias).toNat
      b2n s * 2 ^ (ty.bits - 1) + ex * 2 ^ (ty.prec - 1) + (m * 2 ^ sh) / 2 ^ (Nat.log2 m - (ty.prec - 1)) % 2 ^ (ty.prec - 1)

/-- FP32 bits of a value that rne32 gave. -/
def enc32 (v : FV) : Word32 := BitVec.ofNat 32 (encodeFloat .fp32 v)
/-- The value of FP32 bits. -/
def dec32 (b : Word32) : FV := floatVal .fp32 b.toNat

/-! ## Output conversions (R186 to R189, R193) -/

/-- The event counts of an operation (R212). -/
structure Counts where
  flushi : Nat
  flusho : Nat
  satc : Nat
  nanc : Nat
  chkskip : Nat
  chkfail : Nat
  deriving DecidableEq, Repr

def Counts.zero : Counts := ⟨0, 0, 0, 0, 0, 0⟩
def Counts.plus (a b : Counts) : Counts :=
  ⟨a.flushi + b.flushi, a.flusho + b.flusho, a.satc + b.satc, a.nanc + b.nanc, a.chkskip + b.chkskip, a.chkfail + b.chkfail⟩
def Counts.flushIn (n : Nat) : Counts := { Counts.zero with flushi := n }

/-- The largest finite value of a float type, as bits without the sign (R178). -/
def maxFinite (ty : ETy) : Nat := (2 ^ ty.ebits - 1) * 2 ^ (ty.prec - 1) - 1

/-- The least normal exponent of a float type. -/
def minExp (ty : ETy) : Int := 1 - (ty.bias : Int)

/-- Conversion to a float type (R186 to R189, R192). DEDUCED (log entry 60): under RTZ a value counts SATC where its rounded magnitude, by
R189, is above the largest finite value, so that 65,520 to FP16 counts none, though the row of R194 names SATC and no mode. -/
def toFloat (ty : ETy) (mode : RMode) (satf : Bool) : FV → Nat × Counts
  | .nan => (encodeFloat ty .nan, { Counts.zero with nanc := 1 })
  | .inf s => (encodeFloat ty (.inf s), Counts.zero)
  | .fin s m e =>
    let r := roundSig ty.prec mode m e
    if r.1 = 0 then (0, Counts.zero)
    else if lead r.1 r.2 < minExp ty then (0, { Counts.zero with flusho := 1 })
    else if lead r.1 r.2 > ty.bias then
      let big := b2n s * 2 ^ (ty.bits - 1) + maxFinite ty
      (if mode = .rtz ∨ satf then big else encodeFloat ty (.inf s), { Counts.zero with satc := 1 })
    else (encodeFloat ty (.fin s r.1 r.2), Counts.zero)

/-- The bounds of an integer type (R175). -/
def intMin (ty : ETy) : Int :=
  match ty with
  | .uint8 | .uint4 => 0
  | _ => -(2 ^ (ty.bits - 1))
def intMax (ty : ETy) : Int :=
  match ty with
  | .uint8 => 2 ^ 8 - 1
  | .uint4 => 2 ^ 4 - 1
  | _ => 2 ^ (ty.bits - 1) - 1

/-- Element bits of an integer. -/
def intBits (ty : ETy) (n : Int) : Nat := (n % 2 ^ ty.bits).toNat

/-- Saturation to an integer type (R193). -/
def satInt (ty : ETy) (n : Int) : Nat × Counts :=
  if n < intMin ty then (intBits ty (intMin ty), { Counts.zero with satc := 1 })
  else if n > intMax ty then (intBits ty (intMax ty), { Counts.zero with satc := 1 })
  else (intBits ty n, Counts.zero)

/-- Rounds a finite value to an integer (R192 with the integers as the grid). -/
def toInt (mode : RMode) (s : Bool) (m : Nat) (e : Int) : Int :=
  if e ≥ 0 then sgn s (m * 2 ^ e.toNat)
  else
    let sh := (-e).toNat
    let lo := m / 2 ^ sh
    sgn s (if roundsUp mode lo (m % 2 ^ sh) sh then lo + 1 else lo)

/-- One output conversion of an exact value to a type (R186 to R189, R193). -/
def convOut (ty : ETy) (mode : RMode) (satf : Bool) (v : FV) : Nat × Counts :=
  if ty.isFloat then toFloat ty mode satf v
  else
    match v with
    | .nan => (0, { Counts.zero with nanc := 1 })
    | .inf s => (intBits ty (if s then intMin ty else intMax ty), { Counts.zero with satc := 1 })
    | .fin s m e => satInt ty (toInt mode s m e)

/-- The mode that a 2-bit code selects, with the random bits of the lane (R191). -/
def RMode.ofCode (c rnd : Nat) : RMode := if c = 0 then .rne else if c = 1 then .rtz else .sr rnd

/-! ## Stochastic rounding lanes (R195 to R198) -/

/-- One step of a lane state (R195). -/
def lfsr (s : Word32) : Word32 := if s.getLsbD 0 then (s >>> 1) ^^^ 0x80200003 else s >>> 1

def lfsrN : Nat → Word32 → Word32
  | 0, s => s
  | n + 1, s => lfsrN n (lfsr s)

/-- MSEED after the issue of a converting instruction (R197). -/
def seedNext (s : Word32) : Word32 := lfsrN 32 (if s = 0 then 1 else s)

/-- The seed of lane `l` in pass `p` (R198). -/
def laneSeed (s : Word32) (p l : Nat) : Word32 :=
  let x := s ^^^ BitVec.ofNat 32 (p * 0x9E3779B9)
  let v := x.rotateLeft l ^^^ BitVec.ofNat 32 l
  if v = 0 then 1 else v

/-- The 16 lanes of a path at the start of pass `p` (R196, R198). -/
def laneSeeds (s : Word32) (p : Nat) : List Word32 := (List.range 16).map (laneSeed s p)

/-- Steps lane `l` and gives its random bits (R196). -/
def stepLane (lanes : List Word32) (l : Nat) : List Word32 × Nat :=
  let s := lfsr (lanes.getD (l % 16) 1)
  (lanes.set (l % 16) s, s.toNat % 2 ^ 16)

/-! ## Weight expansion and the multipass split (R204, R205, R208) -/

/-- Rounds an exact value once to the stationary type with RNE; an overflow is ±Infinity and counted in SATC, a subnormal
result is flushed and counted in FLUSHI (R204, R205). -/
def expandRound (ty : ETy) : FV → FV × Counts
  | .fin s m e =>
    let r := roundSig ty.prec .rne m e
    if r.1 = 0 then (.fin s 0 0, Counts.zero)
    else if lead r.1 r.2 < minExp ty then (.fin s 0 0, Counts.flushIn 1)
    else if lead r.1 r.2 > ty.bias then (.inf s, { Counts.zero with satc := 1 })
    else (.fin s r.1 r.2, Counts.zero)
  | v => (v, Counts.zero)

/-- The hi part and the lo part of a flushed FP32 operand, and whether lo was flushed (R208). -/
def split32 (x : FV) : FV × FV × Bool :=
  match x with
  | .fin s m e =>
    let r := roundSig 8 .rne m e
    let hi : FV :=
      if r.1 = 0 then .fin s 0 0
      else if lead r.1 r.2 ≥ 128 then .fin s 0xFF 120
      else .fin s r.1 r.2
    match FV.add x hi.neg with
    | .fin s' m' e' =>
      let q := roundSig 8 .rne m' e'
      if q.1 = 0 then (hi, .fin false 0 0, false)
      else if lead q.1 q.2 < -126 then (hi, .fin s' 0 0, true)
      else (hi, .fin s' q.1 q.2, false)
    | v => (hi, v, false)
  | v => (v, .fin false 0 0, false)

/-! ## Functions of the row unit (R344) -/

/-- The integer square root, by bits from 2^`k` down. -/
def isqrtAux (n : Nat) : Nat → Nat → Nat
  | 0, r => r
  | k + 1, r => isqrtAux n k (if (r + 2 ^ k) * (r + 2 ^ k) ≤ n then r + 2 ^ k else r)
def isqrt (n : Nat) : Nat := isqrtAux n (Nat.log2 n / 2 + 1) 0

/-- 2^f for a fraction f = bits/2^64, in units of 2^-96: the product of the square roots 2^(2^-i). -/
def exp2Frac (bits : Nat) : Nat → Nat → Nat → Nat → Nat
  | 0, _, _, acc => acc
  | k + 1, i, root, acc =>
    let root' := isqrt (root <<< 96)
    exp2Frac bits k (i + 1) root' (if bits / 2 ^ (63 - i) % 2 = 1 then (acc * root') >>> 96 else acc)

/-- A reference value of 2^a, 96 bits before rounding: a is taken down to a multiple of 2^-64, so that a small negative a stays
below 1. -/
def exp2Ref (s : Bool) (m : Nat) (e : Int) : FV :=
  let x : Int :=
    if e + 64 ≥ 0 then sgn s (m * 2 ^ (e + 64).toNat)
    else if s then -(cdiv m (2 ^ (-(e + 64)).toNat) : Int) else (m / 2 ^ (-(e + 64)).toNat : Nat)
  let i := x / 2 ^ 64
  let f := (x % 2 ^ 64).toNat
  .fin false (exp2Frac f 64 0 (2 ^ 97) (2 ^ 96)) (i - 96)

/-- `k` binary digits of log2 of y/2^240, 1 ≤ y/2^240 < 2, by repeated squaring. -/
def log2Frac : Nat → Nat → Nat → Nat
  | 0, _, acc => acc
  | k + 1, y, acc =>
    let y2 := (y * y) >>> 240
    if y2 ≥ 2 ^ 241 then log2Frac k (y2 / 2) (2 * acc + 1) else log2Frac k y2 (2 * acc)

/-- A reference value of log2 (m × 2^e), m ≠ 0, to 100 binary places. -/
def log2Ref (m : Nat) (e : Int) : FV :=
  let n := Nat.log2 m
  let f := log2Frac 100 (m <<< (240 - n)) 0
  let v : Int := ((n : Int) + e) * 2 ^ 100 + f
  .fin (decide (v < 0)) v.natAbs (-100)

/-- A reference value of 1 / (m × 2^e), m ≠ 0. -/
def rcpRef (s : Bool) (m : Nat) (e : Int) : FV := .fin s (2 ^ 90 / m) (-e - 90)

/-- A reference value of 1 / √(m × 2^e), m ≠ 0. -/
def rsqRef (m : Nat) (e : Int) : FV :=
  let m' := if e % 2 = 0 then m else 2 * m
  let e' := if e % 2 = 0 then e else e - 1
  .fin false (isqrt (2 ^ 180 / m')) (-(e' / 2) - 90)

/-- The free deviation of a function's result, in halves of a unit of the last place: added to the exact result taken down to
such a half, it leaves a distance of at most `bound` units from the exact result (R344). -/
def devHalf (op : Nat) (a : Word32) (bound : Nat) : Int :=
  ((Config.rowFnDev op a).toNat % (4 * bound) : Int) - (2 * bound - 1)

/-- The free FP32 result of a function: a value of the format within `bound` units of the last place of the exact result `v`'s
binade, measured from `v` itself and not from a rounding of it (R344; log entry 8). A value between two of the format is taken
to the nearer one to `v`; a result below 2^-126 is a zero, and no other is. -/
def withDev (op : Nat) (a : Word32) (bound : Nat) (v : FV) : FV :=
  match v with
  | .fin s m e =>
    if m = 0 ∨ lead m e < -126 then .fin s 0 0
    else
      let k := lead m e - 24
      let h : Int := if e ≥ k then m * 2 ^ (e - k).toNat else (m / 2 ^ (k - e).toNat : Nat)
      let d := devHalf op a bound
      let c := if lead m e = -126 then max (h + d) (2 ^ 24) else h + d
      let c := if c > 2 ^ 24 ∧ c % 2 = 1 then (if d > 0 then c - 1 else c + 1) else c
      .fin s c.toNat k
  | w => w

/-- A power of two, when the value is one: its exponent. -/
def pow2Exp (m : Nat) (e : Int) : Option Int := if m = 2 ^ Nat.log2 m ∧ m ≠ 0 then some (lead m e) else none

/-- VEXP2 (R344). -/
def vexp2 (v : FV) : FV :=
  match v with
  | .nan => .nan
  | .inf s => if s then .zero else .inf false
  | .fin s m e =>
    if m = 0 then .fin false 1 0
    else if (FV.cmp v (.ofInt 128)) ≠ some .lt then .inf false
    else if FV.cmp v (.ofInt (-127)) = some .lt then .zero
    else if e ≥ 0 ∨ m % 2 ^ (-e).toNat = 0 then rne32 (.fin false 1 (toInt .rtz s m e))
    else
      match rne32 (withDev 9 (enc32 v) 2 (exp2Ref s m e)) with
      | .fin _ m' e' => .fin false m' e'
      | w => w

/-- VLOG2 (R344). -/
def vlog2 (v : FV) : FV :=
  match v with
  | .nan => .nan
  | .inf s => if s then .nan else .inf false
  | .fin s m e =>
    if m = 0 then .inf true
    else if s then .nan
    else
      match pow2Exp m e with
      | some k => .ofInt k
      | none => rne32 (withDev 10 (enc32 v) 2 (log2Ref m e))

/-- VRCP (R344). -/
def vrcp (v : FV) : FV :=
  match v with
  | .nan => .nan
  | .inf s => .fin s 0 0
  | .fin s m e =>
    if m = 0 then .inf s
    else
      match pow2Exp m e with
      | some k => rne32 (.fin s 1 (-k))
      | none => rne32 (withDev 11 (enc32 v) 1 (rcpRef s m e))

/-- VRSQ (R344). -/
def vrsq (v : FV) : FV :=
  match v with
  | .nan => .nan
  | .inf s => if s then .nan else .zero
  | .fin s m e =>
    if m = 0 then .inf s
    else if s then .nan
    else
      match pow2Exp m e with
      | some k => if k % 2 = 0 then .fin false 1 (-(k / 2)) else rne32 (withDev 12 (enc32 v) 1 (rsqRef m e))
      | none => rne32 (withDev 12 (enc32 v) 1 (rsqRef m e))

end Sys2Proof.Machine
end

