-- ==== Sys2Proof/Machine/State.lean ====
section
/-!
DEFINITION. The state of the core as plain data: everything the manual gives it, and the queue of commands waiting.
Numbered units are tables (`Tab`). Each structure cites the rules that name its fields.
-/
namespace Sys2Proof.Machine

/-! ## Threads -/

/-- Thread states, in the order of their codes (R450). -/
inductive ThSt where
  | empty | ready | running | parked | halted | felled
  deriving DecidableEq, Repr

/-- Core states, in the order of their codes (R450). -/
inductive CoreSt where
  | clearing | idle | loading | loaded | running | faulted
  deriving DecidableEq, Repr

/-- Operations of the register-to-register simple instructions (R62). -/
inductive Alu where
  | add | sub | seq | sne | slt | sltu | sle | sleu
  | mov | and | or | xor | shl | shr | sra | rol | not | neg
  | addi (simm : BitVec 4) | shli (c : BitVec 4) | shri (c : BitVec 4) | srai (c : BitVec 4)
  | zxb | sxb | zxn | sxn | swb
  | movImm (imm : Word) | addImm (imm : Word) | andImm (imm : Word) | orImm (imm : Word) | xorImm (imm : Word)
  | seqImm (imm : Word) | sltImm (imm : Word) | sltuImm (imm : Word)
  | adc | sbc
  deriving DecidableEq, Repr

/-- A source of a held instruction: a value latched at placement, or the register result of a pending producer (R62). -/
inductive HSrc where
  | val (w : Word)
  | dep (producer : Nat) (reg : Nat)
  deriving DecidableEq, Repr

/-- A reservation station (R62, R63): `after` lists the producers whose writes of a destination come first. -/
structure Held where
  id : Nat
  op : Alu
  srcs : List HSrc
  dests : List Nat
  after : List Nat
  deriving DecidableEq, Repr

/-- A pending long operation (R54). `dests` are register numbers fixed at issue (R75); `res` holds results already known; `due` is
the number of the thread's slot from which the result of a multiply or divide is readable (R56); `prec` tells that PSW.PRECISE held the thread
at the operation from its issue (R61). -/
structure LongOp where
  id : Nat
  cls : Nat
  pc : Word
  dests : List Nat
  res : List Word
  store : Bool
  due : Nat
  prec : Bool
  deriving DecidableEq, Repr

/-- What a PARKED thread waits on (R67): `ids` are the operations a SETTLE, or the wait of R83, waits for. -/
inductive ParkKind where
  | sendE (e : Nat)
  | recv (e : Nat)
  | wait (v : Nat)
  | settle (ids : List Nat)
  | array (a : Nat)
  deriving DecidableEq, Repr

/-- A parked thread's wait and the instruction that waits. -/
structure Park where
  kind : ParkKind
  instr : Instr
  deriving DecidableEq, Repr

/-- A fault or report to be delivered (R417 to R422). `pc` fixes the frame PC where the rule fixes it; `mrow` gives the
frame's MROW words where R305 or R327 gives them. -/
structure Item where
  code : BitVec 8
  aux : BitVec 8
  fpc : Word
  faddr : Word
  pc : Option Word
  held : Bool
  mrow : Option (Word × Word)
  deriving DecidableEq, Repr

/-- A REP prefix in force (R114 to R121): the held target once it has been fetched (R52). -/
structure Rep where
  interruptible : Bool
  pfx : Word
  tgt : Word
  held : Option Instr
  deriving DecidableEq, Repr

/-- Who asked for a halt (R472, R474, R478): a step of DBG_STEP that has ended, by a park for `stepParked`. -/
inductive HaltBy where
  | dbgHalt | threadStop | dbgStep | stepParked
  deriving DecidableEq, Repr

/-- A ring-1 service the thread is held in (R414, R415). -/
structure Svc where
  code : Nat
  arg : Word
  deriving DecidableEq, Repr

/-- A hardware thread (files 02, 03, 14). `ctl` holds the words of R92 as most recently written, `act` the RWS words in
force; `pcw`, `dlaw` and `dlbw` are PC, DLA and DLB with the parity bits of their words (R74, R92), `dlaCap` and `dlbCap` the high
words that MFC captured (R133); register numbers are 0 to 7 for G0 to G7 and 8 + 8w + n for Ln of window w (R476). `slotNo` counts
the thread's slots that have passed (R42, R56); `tallyBy` holds the cycle and the hand-off number of the tallies (R214), `regBy` for
a register the cycle, the slot and the hand-off number of the last retirement that wrote it (R59); `tidBad` is set where the parity of the
TID word fails (R74); `inPlace` tells that the waiting instruction found both stations full (R64), and `desc` holds the descriptor that a
waiting matrix instruction has read (R283); `framePsw` is the PSW that the next frame records in place of the present one (R88). -/
structure Thread where
  st : ThSt
  pcw : ParWord
  slotNo : Nat
  regs : Tab ParWord
  ctl : Tab ParWord
  act : Tab ParWord
  dlaw : ParWord × ParWord
  dlbw : ParWord × ParWord
  dlaDue : Bool
  dlbDue : Bool
  dlaCap : ParWord
  dlbCap : ParWord
  tallyBy : Nat × Nat
  regBy : Tab (Nat × Nat × Nat)
  tidBad : Bool
  dlbBound : Option Word32
  lfill : Bool
  sfill : Bool
  shapes : Tab Word
  pshapes : Tab Word
  park : Option Park
  waiting : Option Instr
  again : Bool
  inPlace : Bool
  desc : Option (List Word)
  ops : List LongOp
  held : List Held
  rep : Option Rep
  sync : Option Item
  compl : Option Item
  complMore : Nat
  late : Option Item
  lateMore : Nat
  deadlines : List Item
  still : Option Item
  tvoid : Option Item
  haltReq : Option HaltBy
  stepping : Bool
  skipBreak : Bool
  skipWatch : Bool
  framePsw : Option Word
  commitHold : Bool
  service : Option Svc
  notifyAge : Option Nat
  lastgasp : Tab Word
  deriving DecidableEq, Repr

/-! ## Far path (file 05) -/

/-- How far a far access has come (R153 to R169). -/
inductive FarWait where
  | hit (vals : List Word)
  | miss
  | onFill
  | uncached
  | sent
  | noTarget
  | merge
  deriving DecidableEq, Repr

/-- A far load or store handed off and not retired. `ovr` holds the words of the block that earlier stores have written and
that a fill may not carry (R163, R171). -/
structure FarOp where
  id : Nat
  tid : Nat
  pc : Word
  wt : WT
  addr : FarAddr
  off : Word
  store : Bool
  data : List Word
  dests : List Nat
  ovr : Tab Word
  wait : FarWait
  deriving DecidableEq, Repr

/-- A line of the far cache or of the eviction buffer (R157, R159); `block` is address[51:4]. -/
structure Line where
  block : Nat
  wt : WT
  tagOk : Bool
  words : List ParWord
  deriving DecidableEq, Repr

/-- An entry of the merging buffer (R166, R167). -/
structure MergeEntry where
  block : Nat
  wt : WT
  words : Tab ParWord
  threads : List Nat
  ops : List Nat
  age : Nat
  due : Bool
  deriving DecidableEq, Repr

/-- What a far request tag carries (R156). `stores` are the words stored to the block since the request left (R163). -/
inductive FarTag where
  | fill (block : Nat) (wt : WT) (ahead : Bool) (stores : Tab Word)
  | op (id : Nat)
  | entry (m : MergeEntry)
  deriving DecidableEq, Repr

/-! ## Tile engines (file 07) -/

inductive TileKind where
  | tld | tldU | tst | tstU | tzero
  deriving DecidableEq, Repr

/-- A tile operation on its engine (R234 to R245). `row` and `cyc` place the next transfer cycle; `c0`, `c1` are the sums of
R241; `slotVal` is the blaze slot as read; `finished` marks the last port cycle. -/
structure TileOp where
  id : Nat
  tid : Nat
  pc : Word
  kind : TileKind
  tile : Nat
  lt : Nat
  shape : Word
  base : Nat
  stride : Nat
  slot : Nat
  bzi : Nat
  from_ : Nat
  begun : Bool
  row : Nat
  cyc : Nat
  c0 : Nat
  c1 : Nat
  slotVal : Word × Word
  badSlot : Bool
  badAt : Option Nat
  mismatch : Bool
  finished : Bool
  stopReq : Bool
  deriving DecidableEq, Repr

/-! ## Arrays (files 08 to 10) -/

/-- A completion fault's code, AUX and FADDR.ADDR. -/
structure Find where
  code : BitVec 8
  aux : BitVec 8
  faddr : Word
  deriving DecidableEq, Repr

/-- A stationary record (R267). -/
structure StatRec where
  owner : Nat
  shape : Nat
  ty : ETy
  kl : Nat
  deriving DecidableEq, Repr

/-- An expansion table (R304). -/
structure XTab where
  owner : Option Nat
  ty : ETy
  entries : List Word
  void : Option Find
  deriving DecidableEq, Repr

/-- The kinds of a job of the stationary loader or of the table write. -/
inductive JobKind where
  | tile (phys : Nat) (lt : Nat) (shape : Word)
  | gather (desc : List Word)
  | table (phys : Nat) (lt : Nat) (shape : Word)
  deriving DecidableEq, Repr

/-- An MSTAT, MSTAT.C or MTAB handed off and not retired (R268, R287, R296, R304). `next` is the next column to write,
`run` the next run of a gather, `got` the gathered elements by 128 × input row + column. -/
structure Job where
  id : Nat
  tid : Nat
  pc : Word
  slot : Nat
  kind : JobKind
  shape : Nat
  ty : ETy
  kl : Nat
  next : Nat
  run : Nat
  got : Tab Nat
  find : Option Find
  cnt : Counts
  done : Bool
  /-- Set when the array was felled: the job retires without fault and without effect (R332). -/
  voided : Bool
  deriving DecidableEq, Repr

/-- Progress of a pass (R261): waiting to start, streaming, draining its rows, awaiting the verdict, writing, done. -/
inductive PassPhase where
  | waiting | streaming | draining | verdict | writing | done
  deriving DecidableEq, Repr

/-- What the checker found in a pass (R318 to R320): skipped comparisons, the first failing column segment and row segment,
whether any corner disagreed, and whether the corner of a failing block did. -/
structure Seen where
  skips : Nat
  col : Option Nat
  row : Option Nat
  corner : Bool
  cornerOfFail : Bool
  deriving DecidableEq, Repr

/-- A pass (R261 to R271). `sid` is its MSTREAM, `p` its index, `chain` the chain it belongs to when `inChain`; `recs` holds
scale-record words by 256 × block + word; `out` the converted elements by 128 × output row + column; `wr`, `wc` place its next
write. -/
structure Pass where
  id : Nat
  sid : Nat
  tid : Nat
  pc : Word
  slot : Nat
  p : Nat
  desc : List Word
  stype : ETy
  seed : Word32
  mchk : Word
  wtile : Nat
  wshape : Word
  otile : Nat
  oshape : Word
  firstPc : Word
  inChain : Bool
  chain : Nat
  phase : PassPhase
  buf : Nat
  sub : Nat
  k : Nat
  recs : Tab Word
  lanes : List Word32
  /-- The lane states of the shadow lanes, and whether an element of theirs has differed (R324). -/
  shadow : List Word32
  differs : Bool
  /-- The pass, or an earlier one of its chain, has expanded weights (R325, R335). -/
  expd : Bool
  row : Nat
  out : Tab Nat
  outCnt : Tab Counts
  vAt : Nat
  seen : Seen
  /-- The thread was reset: the pass writes nothing and delivers nothing (R309, R329). -/
  orphan : Bool
  wr : Nat
  wc : Nat
  deriving DecidableEq, Repr

/-- An MSTREAM handed off and not retired (R287, R305). -/
structure Stream where
  id : Nat
  tid : Nat
  pc : Word
  slot : Nat
  desc : List Word
  seed : Word32
  cnt : Counts
  fault : Option (Nat × Item)
  stopAt : Option Nat
  orphan : Bool
  deriving DecidableEq, Repr

/-- A chain that hand-offs have left open (R264, R266), numbered by the MSTREAM of its FIRST pass, with that MSTREAM's PC
(R327). -/
structure Chain where
  id : Nat
  holder : Nat
  firstPc : Word
  deriving DecidableEq, Repr

/-- The buffer that a chain holds between its passes (R265); `expd` says that one of them has expanded weights. -/
structure ChainBuf where
  buf : Nat
  chain : Nat
  tid : Nat
  expd : Bool
  deriving DecidableEq, Repr

/-- One of the two arrays (R254). `store` is keyed 128 × store row + position; `chkStore` holds C and C+ keyed by
((2 × part + magnitude) × 4 + block) × 128 + column; `acc`, `sat` are keyed 128 × buffer + 16 × i + j; `secV`, `secM` are
keyed 64 × buffer + section, sections 0 to 31 the column segments, 32 to 47 the row segments, 48 to 51 the corners; `voidCol`
is keyed 128 × slot + column; `lastMismatch` holds the pass count, the cycle and the slot of the most recent mismatch (R331). -/
structure Arr where
  felled : Bool
  store : Tab FV
  chkStore : Tab FV
  voidCol : Tab Find
  acc : Tab Word32
  sat : Tab Bool
  secV : Tab FV
  secM : Tab FV
  recs : Tab StatRec
  tabs : Tab XTab
  jobs : List Job
  passes : List Pass
  streams : List Stream
  chains : Tab Chain
  chainBufs : Tab ChainBuf
  ptr : Tab Nat
  fillPtr : Nat
  writeQ : List Nat
  passCount : Nat
  lastMismatch : Option (Nat × Nat × Nat)
  testing : Option Nat
  deriving DecidableEq, Repr

/-! ## Row unit (file 11) -/

/-- A row-unit instruction handed off (R337 to R348), with the tiles and shapes it resolved at issue (R218). -/
structure RowOp where
  id : Nat
  tid : Nat
  pc : Word
  op : Nat
  td : Nat
  ta : Nat
  tb : Nat
  ltd : Nat
  lta : Nat
  ltb : Nat
  sd : Word
  sa : Word
  sb : Word
  bc : Nat
  rm : Nat
  seed : Word32
  satf : Bool
  deriving DecidableEq, Repr

/-! ## Flumes (file 12) -/

inductive EndSt where
  | unbound | opened | closed | peerClosed | peerAbsent
  deriving DecidableEq, Repr

/-- The status of a flume end (R354, R356, R361, R367, R373, R379). `avail` counts messages written and not taken; `held`
is the held slot of a ring; `tileHeld` marks a held tile; `landed` counts landed rows; `lost` marks a send end whose landing held words when it was
discarded on leaving OPEN, and a receive end that closed under a RECV of its owner (R375, R377). -/
structure FEnd where
  st : EndSt
  credit : Nat
  resv : Bool
  landing : List Word
  lost : Bool
  seq : Word
  pacc : Word
  pcon : Word
  u : Nat
  fill : Nat
  take : Nat
  avail : Nat
  held : Option Nat
  tileHeld : Bool
  armed : Bool
  phys : Nat
  shape : Word
  nextRow : Nat
  landed : Nat
  stall : Nat
  deriving DecidableEq, Repr

/-- An accepted message on its way to its slot or row (R357, R373). -/
structure InMsg where
  e : Nat
  place : Nat
  seq : Word
  data : List Word
  deriving DecidableEq, Repr

/-! ## Skidder (file 13) -/

inductive LaneSt where
  | idle | running | stopped
  deriving DecidableEq, Repr

/-- Progress of a lane (R393 to R395): `message` waits for a credit, `reserved` holds one and waits for room among the packets. -/
inductive LanePhase where
  | none | takeUp | sealInit | verifyRead | move | sealWrite | complete | message | reserved
  deriving DecidableEq, Repr

/-- A skidder lane (R384, R385, R393 to R396). `op` is the SKID not yet retired; `src` and `cvt` hold the source words read
and the converted words, by row-major position; `stopReq` stops the lane once the notices of its descriptor are sent (R397). -/
structure Lane where
  st : LaneSt
  reason : BitVec 8
  daddr : Word
  pc : Word
  op : Option Nat
  desc : List Word
  phase : LanePhase
  rd : Nat
  wr : Nat
  src : Tab Word
  cvt : Tab Word
  cvtRow : Nat
  sr : Word32
  slotVal : Word × Word
  badWord : Bool
  msgWait : Nat
  stopReq : Bool
  deriving DecidableEq, Repr

/-- What a MOV tag carries (R403): a read of `n` words to position `pos`, a write, or a blaze slot access; `dropped` when its lane has
stopped and its answer is discarded (R396). -/
inductive MovTag where
  | read (lane pos n : Nat)
  | write (lane : Nat)
  | slotRead (lane : Nat)
  | slotWrite (lane : Nat)
  | dropped (lane : Nat)
  deriving DecidableEq, Repr

/-! ## Packets, notices and Atpolet (files 01, 15) -/

/-- A grove-port packet (R29). -/
structure Packet where
  cls : BitVec 4
  dst : CoreId
  src : CoreId
  payload : List Word
  deriving DecidableEq, Repr

/-- A notice (R484). -/
structure Notice where
  code : BitVec 8
  tag : Word
  words : List Word
  deriving DecidableEq, Repr

/-- An Atpolet command (R445). -/
structure AtpCmd where
  src : CoreId
  payload : List Word
  deriving DecidableEq, Repr

/-- A command in execution that waits (R448): until when, in MCLK cycles, where it has a time-out. -/
inductive AtpWait where
  /-- THREAD_STOP: its time-out, and when the thread stopped running, from where the time-out counts (R474). -/
  | stop (tid : Nat) (timeout : Nat) (since : Option Nat)
  | commit (until_ : Nat)
  /-- The commit wait has passed its limit with this thread pending, in these classes (R467). -/
  | late (tid classes : Nat)
  | halt (tid : Nat)
  | step (tid : Nat)
  | clock
  | freq
  deriving DecidableEq, Repr

/-- A switch of ACLK (R495 to R497): kind 0 fallback, 1 divider, 2 source; the service's thread when CLOCK_STEP asked. -/
structure Switch where
  kind : Nat
  root : Nat
  div : Nat
  svc : Option Nat
  reply : Bool
  bringup : Bool
  deriving DecidableEq, Repr

/-- A frequency count in progress (R499): by Atpolet, or by the named thread's service; the request word (counted source,
reference and exponent, R415), whether the first reference edge has come, the ACLK cycles since the start, and the cycles of the
counted source and of the reference so far, where they are ACLK or MCLK. -/
structure FreqJob where
  svc : Option Nat
  req : Word
  begun : Bool
  age : Nat
  xs : Nat
  ys : Nat
  deriving DecidableEq, Repr

/-- The CDR being tried in a cold bring-up (R505). -/
inductive Bringup where
  | none | tryA | tryB | gaveUp
  deriving DecidableEq, Repr

/-- Clock sources, the switch, the monitor and the counter (file 16). -/
structure Clk where
  root : Nat
  div : Nat
  switch : Option Switch
  queue : List Switch
  monitorOn : Bool
  fallback : Bool
  selUnder : Bool
  laneA : BitVec 3
  laneB : BitVec 3
  selWait : Option Nat
  freq : Option FreqJob
  bringup : Bringup
  tryCycles : Nat
  deriving DecidableEq, Repr

/-- The pins the core reads (R24). -/
structure Pins where
  pwrOk : Bool
  rstColdN : Bool
  rstWarmN : Bool
  deriving DecidableEq, Repr

/-- A warm reset before CLEARING (R502): whether it is CORE_CLEAR, the command to answer, the drain cycles passed. -/
structure Warm where
  clear : Bool
  cmd : Option AtpCmd
  age : Nat
  frozen : Bool
  deriving DecidableEq, Repr

/-- A breakpoint (R479) or watchpoint (R480). -/
structure BrkPt where
  ctl : Word
  lo : Word
  hi : Word
  deriving DecidableEq, Repr

/-! ## The core -/

/-- The state of the core. -/
structure State where
  /-- Commands waiting, first in, first out. -/
  pending : List Instr
  pins : Pins
  ident : CoreId
  trim : Tab Word
  trimUser : Bool
  trimSo : List Word
  core : CoreSt
  faultCause : BitVec 8
  ready : Word
  readySent : Word
  readyMark : Option (Nat × Word)
  cycle : Nat
  mclk : Nat
  mclkFrac : Nat
  slotCtr : Nat
  stillCtr : Nat
  stillRaised : Bool
  warm : Option Warm
  /-- RST_WARM_N was asserted during a switch of ACLK: the warm reset begins when the switch ends (R509). -/
  warmDue : Bool
  longClear : Bool
  clk : Clk
  cfg : Tab Word
  image : Tab Word
  clkWritten : Bool
  decl : Tab Word
  declNew : Tab Word
  txn : Option (Tab Word)
  threads : Tab Thread
  mem : Tab ParWord
  cruiseNext : Nat
  cruiseAge : Nat
  tally : Tab Word
  farOps : List FarOp
  tags : Tab FarTag
  /-- A prefetch that waits for a free tag (R156, R162). -/
  ahead : Option (Nat × WT)
  lines : Tab Line
  evict : Option Line
  merge : List MergeEntry
  tiles : Tab ParWord
  poison : Tab Bool
  eng : Tab (List TileOp)
  arrs : Tab Arr
  rowQ : List RowOp
  rowCur : Option RowOp
  rowLast : Nat
  ends : Tab FEnd
  flumeOut : List Packet
  /-- Flume packets of this core to itself that have left and not arrived (R381). -/
  loop : List Packet
  ringWrites : List InMsg
  landWrites : List InMsg
  lanes : Tab Lane
  movTags : Tab MovTag
  wardenQ : List Item
  notices : List Notice
  noticeSeq : Word
  faultLog : List (List Word)
  atpQ : List AtpCmd
  atpCur : Option (AtpCmd × AtpWait)
  brks : Tab BrkPt
  watches : Tab BrkPt
  gpOut : List Packet
  nextId : Nat
  deriving DecidableEq, Repr

/-- Why the model stops: it stops nowhere. -/
inductive Fault where
  /-- No command raises it: every command answers a next state in every state, a packet that no class can carry as R33 gives it. Safe. -/
  | illFormed (mnemonic : String)
  deriving DecidableEq, Repr

/-- Why a command has no meaning here. -/
inductive Refusal where
  /-- Raised by an arm of `exec` whose command is not modelled yet; no arm is. Safe: the model goes no further. -/
  | notModelled (mnemonic : String)
  deriving DecidableEq, Repr

/-! ## Reset values -/

/-- A thread after a cold or warm reset: EMPTY, registers 0x0000, control registers at the Reset values of R93 (PSW 0x000F,
MCHK.E 12), no frame (R427), nothing pending. -/
def Thread.init : Thread where
  st := .empty
  pcw := pw0
  slotNo := 0
  regs := []
  ctl := [(0x01, ⟨0x000F, false⟩), (0x2A, ⟨0x0018, false⟩)]
  act := [(0x2A, ⟨0x0018, false⟩)]
  dlaw := (pw0, pw0)
  dlbw := (pw0, pw0)
  dlaDue := false
  dlbDue := false
  dlaCap := pw0
  dlbCap := pw0
  tallyBy := (0, 0)
  regBy := []
  tidBad := false
  dlbBound := none
  lfill := true
  sfill := true
  shapes := []
  pshapes := []
  park := none
  waiting := none
  again := false
  inPlace := false
  desc := none
  ops := []
  held := []
  rep := none
  sync := none
  compl := none
  complMore := 0
  late := none
  lateMore := 0
  deadlines := []
  still := none
  tvoid := none
  haltReq := none
  stepping := false
  skipBreak := false
  skipWatch := false
  framePsw := none
  commitHold := false
  service := none
  notifyAge := none
  lastgasp := []

/-- An array after a reset: no owners, no passes, not felled (R267, R334). -/
def Arr.init : Arr where
  felled := false
  store := []
  chkStore := []
  voidCol := []
  acc := []
  sat := []
  secV := []
  secM := []
  recs := []
  tabs := []
  jobs := []
  passes := []
  streams := []
  chains := []
  chainBufs := []
  ptr := []
  fillPtr := 0
  writeQ := []
  passCount := 0
  lastMismatch := none
  testing := none

/-- An UNBOUND end (R354). -/
def FEnd.init : FEnd where
  st := .unbound
  credit := 0
  resv := false
  landing := []
  lost := false
  seq := 0
  pacc := 0
  pcon := 0
  u := 0
  fill := 0
  take := 0
  avail := 0
  held := none
  tileHeld := false
  armed := false
  phys := 0
  shape := 0
  nextRow := 0
  landed := 0
  stall := 0

/-- An IDLE lane (R385). -/
def Lane.init : Lane where
  st := .idle
  reason := 0
  daddr := 0
  pc := 0
  op := none
  desc := []
  phase := .none
  rd := 0
  wr := 0
  src := []
  cvt := []
  cvtRow := 0
  sr := 0
  slotVal := (0, 0)
  badWord := false
  msgWait := 0
  stopReq := false

/-- The clock after a cold reset begins: the understory root at DIV 2 (R489, R505). -/
def Clk.init : Clk where
  root := 2
  div := 2
  switch := none
  queue := []
  monitorOn := false
  fallback := false
  selUnder := false
  laneA := 0
  laneB := 0
  selWait := none
  freq := none
  bringup := .none
  tryCycles := 0

/-- The core held in its cold reset: RST_COLD_N asserted with the supply within limits, nothing shifted in yet, every item
at the value that R501 and the Reset columns give. Log entries 4 and 5. -/
def State.reset : State where
  pending := []
  pins := ⟨true, false, true⟩
  ident := 0
  trim := []
  trimUser := false
  trimSo := []
  core := .clearing
  faultCause := 0
  ready := 0x0400
  readySent := 0
  readyMark := none
  cycle := 0
  mclk := 0
  mclkFrac := 0
  slotCtr := 0
  stillCtr := 0
  stillRaised := false
  warm := none
  warmDue := false
  longClear := true
  clk := Clk.init
  cfg := []
  image := []
  clkWritten := false
  decl := []
  declNew := []
  txn := none
  threads := []
  mem := []
  cruiseNext := 0
  cruiseAge := 0
  tally := []
  farOps := []
  tags := []
  ahead := none
  lines := []
  evict := none
  merge := []
  tiles := []
  poison := []
  eng := []
  arrs := []
  rowQ := []
  rowCur := none
  rowLast := 63
  ends := []
  flumeOut := []
  loop := []
  ringWrites := []
  landWrites := []
  lanes := []
  movTags := []
  wardenQ := []
  notices := []
  noticeSeq := 0
  faultLog := []
  atpQ := []
  atpCur := none
  brks := []
  watches := []
  gpOut := []
  nextId := 0

end Sys2Proof.Machine
end

