-- ==== Sys2Proof/Machine/Ops.lean ====
section
/-!
DEFINITION. The named operations that every family shares: access to numbered units, the configuration space (R457), local
memory and compartments (R146 to R149), control registers (R91 to R93), counters, notices (R483, R484) and warden reports
(R435, R436).
-/
namespace Sys2Proof.Machine

/-- What a meaning answers. -/
abbrev Out := Host.Outcome State Fault Refusal

/-! ## Numbered units -/

def State.thr (s : State) (t : Nat) : Thread := Tab.get Thread.init s.threads t
def State.setThr (s : State) (t : Nat) (th : Thread) : State := { s with threads := Tab.put s.threads t th }
def State.modThr (s : State) (t : Nat) (f : Thread → Thread) : State := s.setThr t (f (s.thr t))

def State.arr (s : State) (a : Nat) : Arr := Tab.get Arr.init s.arrs a
def State.setArr (s : State) (a : Nat) (x : Arr) : State := { s with arrs := Tab.put s.arrs a x }
def State.modArr (s : State) (a : Nat) (f : Arr → Arr) : State := s.setArr a (f (s.arr a))

def State.fend (s : State) (e : Nat) : FEnd := Tab.get FEnd.init s.ends e
def State.setEnd (s : State) (e : Nat) (x : FEnd) : State := { s with ends := Tab.put s.ends e x }
def State.modEnd (s : State) (e : Nat) (f : FEnd → FEnd) : State := s.setEnd e (f (s.fend e))

def State.lane (s : State) (n : Nat) : Lane := Tab.get Lane.init s.lanes n
def State.setLane (s : State) (n : Nat) (x : Lane) : State := { s with lanes := Tab.put s.lanes n x }
def State.modLane (s : State) (n : Nat) (f : Lane → Lane) : State := s.setLane n (f (s.lane n))

def State.engQ (s : State) (x : Nat) : List TileOp := Tab.get [] s.eng x
def State.setEng (s : State) (x : Nat) (q : List TileOp) : State := { s with eng := Tab.put s.eng x q }

/-- A hand-off number, and the state that has used it. -/
def State.fresh (s : State) : Nat × State := (s.nextId, { s with nextId := s.nextId + 1 })

/-- The core runs its ACLK domain: powered, out of cold reset, no switch in progress (R26, R45, R497). -/
def State.live (s : State) : Bool := s.pins.pwrOk && s.pins.rstColdN && s.clk.switch.isNone

/-- The core's own units work: it is not CLEARING, not FAULTED, and no warm reset has begun (R438, R502). -/
def State.runs (s : State) : Bool :=
  s.live && decide (s.core ≠ .faulted) && decide (s.core ≠ .clearing) && s.warm.isNone

/-- Work that has started goes on, in a warm reset until CLEARING as well (R502): the core is live and neither CLEARING nor
FAULTED. -/
def State.flows (s : State) : Bool := s.live && decide (s.core ≠ .faulted) && decide (s.core ≠ .clearing)

/-! ## Configuration space (R457) -/

/-- The Reset value of a configuration word: STALL is 20, CLKITEM.DIV is 2, every other item 0 (R354, R458). -/
def cfgReset (a : Nat) : Word :=
  if a = 0x0610 then 2
  else if 0x0100 ≤ a ∧ a < 0x0200 ∧ a % 8 = 3 then 0x5000
  else 0

def cfgAt (c : Tab Word) (a : Nat) : Word := (Tab.find c a).getD (cfgReset a)

/-- The bits of a configuration word that a map names; reserved bits read as zero (R11). -/
def cfgMask (a : Nat) : Nat :=
  if a < 0x0020 then 0xFFFF
  else if a = 0x0040 then 0x0003
  else if 0x0100 ≤ a ∧ a < 0x0200 then
    match a % 8 with
    | 0 => 0x1FFF
    | 1 => 0xFFFF
    | 2 => 0x1FFF
    | 3 => 0x7FFF
    | 4 => 0x007F
    | 5 => 0xFFFC
    | _ => 0x0001
  else if 0x0200 ≤ a ∧ a < 0x0204 then 0x007F
  else if 0x0300 ≤ a ∧ a < 0x0335 then
    let i := (a - 0x0300) % 0x20
    if i = 0 then 0x007F else if i < 5 then 0x007F else 0x00FF
  else if 0x0400 ≤ a ∧ a < 0x0500 then (if a % 2 = 0 then 0xFFFF else 0x000F)
  else if 0x0500 ≤ a ∧ a < 0x05C0 then (if (a - 0x0500) % 3 = 0 then 0x001F else 0xFFFF)
  else if 0x0600 ≤ a ∧ a < 0x0610 then 0x007F
  else if a = 0x0610 then 0x0007
  else if 0x1000 ≤ a ∧ a < 0x1400 then
    match a % 16 with
    | 0 => 0x3FFF
    | 11 => 0x001F
    | _ => 0xFFFF
  else 0xFFFF

/-- Whether an item holds a configuration address (R457). -/
def cfgHas (a : Nat) : Bool :=
  decide (a < 0x0020) || decide (a = 0x0040) ||
  (decide (0x0100 ≤ a ∧ a < 0x0200) && decide (a % 8 < 7)) ||
  decide (0x0200 ≤ a ∧ a < 0x0204) ||
  decide (0x0300 ≤ a ∧ a < 0x0315) || decide (0x0320 ≤ a ∧ a < 0x0335) ||
  decide (0x0400 ≤ a ∧ a < 0x0500) || decide (0x0500 ≤ a ∧ a < 0x05C0) ||
  decide (0x0600 ≤ a ∧ a ≤ 0x0610) || decide (0x1000 ≤ a ∧ a < 0x1400)

/-- Whether TXN_SET may stage the word at an address (R457). -/
def cfgStageable (a : Nat) : Bool :=
  cfgHas a && decide (a ≠ 0x0040) &&
  (decide (a < 0x1000) || decide (a % 16 = 0) || decide (a % 16 = 8) || decide (a % 16 = 9))

def cfgWrite (c : Tab Word) (a : Nat) (w : Word) : Tab Word := Tab.put c a (wd (w.toNat &&& cfgMask a))

/-- The number of threads N (R39, R463). -/
def State.nThr (s : State) : Nat := 8 * 2 ^ fld (Tab.get 0 s.decl 0) 1 0

/-- Reservation stations and interlocks exist (R40). -/
def State.small (s : State) : Bool := decide (s.nThr ≤ 16)

/-- The warden that the declaration names (R435, R463). -/
def State.warden (s : State) : Option Nat :=
  let w := Tab.get 0 s.decl 9
  if bit w 10 then some (fld w 9 3) else none

def cmpW0 (c : Tab Word) (n : Nat) : Word := cfgAt c (2 * n)
def cmpW1 (c : Tab Word) (n : Nat) : Word := cfgAt c (2 * n + 1)
def endW (c : Tab Word) (e i : Nat) : Word := cfgAt c (0x0100 + 8 * e + i)
def laneW (c : Tab Word) (n : Nat) : Word := cfgAt c (0x0200 + n)
def shareW (c : Tab Word) (a i : Nat) : Word := cfgAt c (0x0300 + 0x20 * a + i)
def gateW (c : Tab Word) (world : Bool) (n i : Nat) : Word := cfgAt c ((if world then 0x0480 else 0x0400) + 2 * n + i)
def hgateW (c : Tab Word) (n i : Nat) : Word := cfgAt c (0x0500 + 3 * (n - 64) + i)
def tileW (c : Tab Word) (p : Nat) : Word := cfgAt c (0x0600 + p)
def declW (c : Tab Word) (t i : Nat) : Word := cfgAt c (0x1000 + 16 * t + i)

/-- Flume end configuration (R354). -/
def endDir (c : Tab Word) (e : Nat) : Bool := bit (endW c e 0) 0
def endTile (c : Tab Word) (e : Nat) : Bool := bit (endW c e 0) 1
def endOwner (c : Tab Word) (e : Nat) : Nat := fld (endW c e 0) 7 2
def endEvv (c : Tab Word) (e : Nat) : Nat := fld (endW c e 0) 11 8
def endEve (c : Tab Word) (e : Nat) : Bool := bit (endW c e 0) 12
def endPeer (c : Tab Word) (e : Nat) : CoreId :=
  BitVec.ofNat 24 (fld (endW c e 2) 7 0 * 2 ^ 16 + (endW c e 1).toNat)
def endPend (c : Tab Word) (e : Nat) : Nat := fld (endW c e 2) 12 8
def endMaxlen (c : Tab Word) (e : Nat) : Nat := fld (endW c e 3) 3 0
def endSlots (c : Tab Word) (e : Nat) : Nat := fld (endW c e 3) 9 4
def endStall (c : Tab Word) (e : Nat) : Nat := fld (endW c e 3) 14 10
def endCred0 (c : Tab Word) (e : Nat) : Nat := fld (endW c e 4) 6 0
def endRbase (c : Tab Word) (e : Nat) : Nat := (endW c e 5).toNat
/-- Slot stride of a RING end (R356). -/
def endStride (c : Tab Word) (e : Nat) : Nat := 4 * cdiv (endMaxlen c e + 1 + 2) 4
def slotAddr (c : Tab Word) (e i : Nat) : Nat := (endRbase c e + i * endStride c e) % 65536

/-- The thread to which a physical tile is allotted (R217, R458). -/
def tileOwner (c : Tab Word) (p : Nat) : Option Nat :=
  if bit (tileW c p) 6 then some (fld (tileW c p) 5 0) else none

/-- The owner of an enabled lane (R384). -/
def laneOwner (c : Tab Word) (n : Nat) : Nat := fld (laneW c n) 5 0
def laneEn (c : Tab Word) (n : Nat) : Bool := bit (laneW c n) 6

/-! ## Local memory (R135, R136) -/

/-- The canonical form of local memory: addresses strictly rise, and no entry equals what an unlisted address reads as, the word
0x0000 with good parity (R137). -/
def Memory.wf (m : Tab ParWord) : Bool := Tab.wf pw0 m

def State.mget (s : State) (a : Nat) : ParWord := Tab.get pw0 s.mem (a % 65536)
/-- Writes a word with the parity that a write generates (R136). -/
def State.mset (s : State) (a : Nat) (w : Word) : State := { s with mem := Tab.set pw0 s.mem (a % 65536) (pw w) }
/-- Writes consecutive words, addresses modulo 2^16. -/
def State.msetList (s : State) (a : Nat) : List Word → State
  | [] => s
  | w :: ws => (s.mset a w).msetList (a + 1) ws
def State.mwords (s : State) (a n : Nat) : List ParWord := (List.range n).map (fun i => s.mget (a + i))

/-- The first of `n` words from `a` whose parity check fails. -/
def State.badIn (s : State) (a n : Nat) : Option Nat := ((List.range n).map (a + ·)).find? (fun x => !parOk (s.mget x))

/-- The group number of an address (R135). -/
def grp (a : Nat) : Nat := a / 4
/-- Groups that `n` words from `a` span (R235). -/
def groups (a n : Nat) : Nat := if n = 0 then 0 else (a + n - 1) / 4 - a / 4 + 1

/-! ## Tile words (R216). DESIGN CHOICE (log entry 63): no rule refuses a shape of more than 512 words that ERET or DBG_WRITE makes
active; the index of its words wraps at 512. -/

def State.tget (s : State) (p i : Nat) : ParWord := Tab.get pw0 s.tiles (512 * p + i % 512)
def State.tset (s : State) (p i : Nat) (w : Word) : State :=
  { s with tiles := Tab.set pw0 s.tiles (512 * p + i % 512) (pw w) }
def State.tsetList (s : State) (p i : Nat) : List Word → State
  | [] => s
  | w :: ws => (s.tset p i w).tsetList p (i + 1) ws
def State.poisoned (s : State) (p : Nat) : Bool := Tab.get false s.poison p
def State.setPoison (s : State) (p : Nat) (b : Bool) : State := { s with poison := Tab.set false s.poison p b }
/-- Clears a physical tile and its poison (R220). -/
def State.clearTile (s : State) (p : Nat) : State :=
  { s with tiles := s.tiles.filter (fun e => e.1 / 512 ≠ p), poison := Tab.del s.poison p }

/-! ## Compartments (R146 to R150) -/

inductive Perm where
  | r | w | x
  deriving DecidableEq, Repr

def Perm.bitNo : Perm → Nat
  | .r => 13
  | .w => 14
  | .x => 15

/-- Entry `n` covers granule `g` for world and tenant `wt` (R146, R148). -/
def cmpCovers (c : Tab Word) (n : Nat) (wt : WT) (g : Nat) : Bool :=
  let w0 := cmpW0 c n
  let w1 := cmpW1 c n
  decide (fld w0 7 0 ≤ g) && decide (g ≤ fld w0 15 8) && decide (fld w1 15 13 ≠ 0) && decide (fld w1 12 0 = wt.toNat)

/-- The compartment check of one granule: none when it passes, else CAUSE.AUX (R148, R150). -/
def granCheck (c : Tab Word) (wt : WT) (g : Nat) (p : Perm) : Option Nat :=
  let cov := (List.range 16).filter (fun n => cmpCovers c n wt g)
  if cov.any (fun n => bit (cmpW1 c n) p.bitNo) then none else if cov = [] then some 0x01 else some 0x02

def State.cmp (s : State) (wt : WT) (a : Nat) (p : Perm) : Option Nat := granCheck s.cfg wt (a % 65536 / 256) p

/-- The range check of R149 from the lowest to the highest word: AUX and FADDR.ADDR of the first failure. -/
def rangeCheck (c : Tab Word) (wt : WT) (lo hi : Nat) (ps : List Perm) : Option (Nat × Nat) :=
  if hi > 0xFFFF then some (0x03, lo)
  else
    (List.range (hi / 256 + 1 - lo / 256)).findSome? (fun i =>
      ps.findSome? (fun p => (granCheck c wt (lo / 256 + i) p).map (fun aux => (aux, (lo / 256 + i) * 256))))

/-- One compartment entry of the world and tenant covers words `lo` to `hi` and grants R and W (R83, R355). -/
def oneCovers (c : Tab Word) (wt : WT) (lo hi : Nat) : Bool :=
  decide (hi ≤ 0xFFFF) &&
  (List.range 16).any (fun n =>
    cmpCovers c n wt (lo / 256) && cmpCovers c n wt (hi / 256) && bit (cmpW1 c n) 13 && bit (cmpW1 c n) 14)

/-! ## Control registers (R91 to R93) -/

/-- Indexes of R92 used by name. -/
def iPSW : Nat := 0x01
def iCAUSE : Nat := 0x02
def iFPC : Nat := 0x03
def iFADDR : Nat := 0x04
def iSSP : Nat := 0x06
def iSBASE : Nat := 0x07
def iEVB : Nat := 0x08
def iEVPEND : Nat := 0x09
def iEVEN : Nat := 0x0A
def iLCNT : Nat := 0x0B
def iWP : Nat := 0x0C
def iSAVEP : Nat := 0x0D
def iCTXL : Nat := 0x0E
def iTVIEW : Nat := 0x0F
def iBZBASE : Nat := 0x11
def iMROW : Nat := 0x12
def iXB : Nat := 0x14
def iTALLY : Nat := 0x24
def iMSEED : Nat := 0x28
def iMCHK : Nat := 0x2A
def iTTAG : Nat := 0x2B
def iTID : Nat := 0x2C

/-- The words with access code RWS (R92). -/
def isRws (i : Nat) : Bool :=
  decide (i = 0x07) || decide (i = 0x08) || decide (i = 0x0F) || decide (i = 0x10) || decide (i = 0x11) ||
  (decide (0x14 ≤ i) && decide (i ≤ 0x1F)) || decide (i = 0x2A)

/-- The bits of a control word that a write may set (R11, R93). -/
def ctlMask (i : Nat) : Nat :=
  if i = 0x01 then 0x003F
  else if i = 0x08 then 0xFFC0
  else if i = 0x0C then 0x0003
  else if i = 0x0D ∨ i = 0x0E then 0xFFFC
  else if i = 0x11 then 0xFFFE
  else if i = 0x16 ∨ i = 0x19 ∨ i = 0x1C ∨ i = 0x1F then 0x007F
  else if i = 0x2A then 0x003F
  else 0xFFFF

/-- PC, and PC written whole with parity (R74, R92). -/
def Thread.pc (th : Thread) : Word := th.pcw.d
def Thread.setPc (th : Thread) (w : Word) : Thread := { th with pcw := pw w }

/-- The counts of DLA and DLB, and their writes with parity (R74, R130). -/
def Thread.dla (th : Thread) : Word32 := mk32 th.dlaw.1.d th.dlaw.2.d
def Thread.dlb (th : Thread) : Word32 := mk32 th.dlbw.1.d th.dlbw.2.d
def Thread.setDla (th : Thread) (v : Word32) : Thread := { th with dlaw := (pw (lo32 v), pw (hi32 v)) }
def Thread.setDlb (th : Thread) (v : Word32) : Thread := { th with dlbw := (pw (lo32 v), pw (hi32 v)) }

/-- `n` of the thread's slots pass (R42, R50, R56). -/
def Thread.slots (th : Thread) (n : Nat) : Thread := { th with slotNo := th.slotNo + n }

/-- A multiply or divide whose result is readable in the thread's next slot has not retired (R54, R56). -/
def Thread.owes (th : Thread) : Bool := th.ops.any (fun o => decide (o.cls = 1) && decide (o.due ≤ th.slotNo))

/-- A control word as most recently written. -/
def Thread.ctlP (th : Thread) (i : Nat) : ParWord := Tab.get pw0 th.ctl i
def Thread.ctlW (th : Thread) (i : Nat) : Word := (th.ctlP i).d
/-- The word an instruction uses: the one in force for an RWS register (R9). -/
def Thread.useP (th : Thread) (i : Nat) : ParWord := if isRws i then Tab.get pw0 th.act i else th.ctlP i
def Thread.useW (th : Thread) (i : Nat) : Word := (th.useP i).d
/-- Writes a control word whole, with parity; the word in force of an RWS register stays (R9). -/
def Thread.setCtl (th : Thread) (i : Nat) (w : Word) : Thread := { th with ctl := Tab.set pw0 th.ctl i (pw w) }
/-- Writes a control word and, for an RWS register, the word in force. -/
def Thread.setBoth (th : Thread) (i : Nat) (w : Word) : Thread :=
  let th := th.setCtl i w
  if isRws i then { th with act := Tab.set pw0 th.act i (pw w) } else th

/-- Makes every pending RWS write take effect (R9, R126). -/
def Thread.syncRws (th : Thread) : Thread :=
  { th with act := th.ctl.filter (fun e => isRws e.1) }

/-- Makes every pending shape active (R224). -/
def Thread.syncShapes (th : Thread) : Thread :=
  { th with shapes := th.pshapes.foldl (fun m e => Tab.set 0 m e.1 e.2) th.shapes, pshapes := [] }

/-- The first of some control words whose parity fails where an instruction uses them: word 0x00 is PC (R74). -/
def Thread.badUse (th : Thread) (l : List Nat) : Option Nat :=
  l.find? (fun i => !parOk (if i = 0 then th.pcw else th.useP i))

/-- The word of TID with its parity bit (R74, R92). -/
def Thread.tidP (th : Thread) (t : Nat) : ParWord := if th.tidBad then ⟨wd t, !(pw (wd t)).p⟩ else pw (wd t)
def Thread.psw (th : Thread) : Word := th.ctlW iPSW
def Thread.mask (th : Thread) : Nat := fld th.psw 2 0
/-- Supervisor level (R405). -/
def Thread.sup (th : Thread) : Bool := bit th.psw 3
def Thread.esc (th : Thread) : Bool := bit th.psw 4
def Thread.precise (th : Thread) : Bool := bit th.psw 5
def Thread.wp (th : Thread) : Nat := fld (th.ctlW iWP) 1 0
/-- World and tenant tag (R31, R405). -/
def Thread.wt (th : Thread) : WT := (th.ctlW iTTAG).setWidth 13
def Thread.world (th : Thread) : Bool := bit (th.ctlW iTTAG) 12
def Thread.mrow0 (th : Thread) : Word := th.ctlW iMROW
def Thread.mrow1 (th : Thread) : Word := th.ctlW (iMROW + 1)
/-- MROW.RES (R93). -/
def Thread.mres (th : Thread) : Bool := bit th.mrow1 15
def Thread.setMrow (th : Thread) (idx : Nat) (w1 : Word) : Thread := (th.setCtl iMROW (wd idx)).setCtl (iMROW + 1) w1
def Thread.mseed (th : Thread) : Word32 := mk32 (th.ctlW iMSEED) (th.ctlW (iMSEED + 1))
def Thread.setMseed (th : Thread) (v : Word32) : Thread := (th.setCtl iMSEED (lo32 v)).setCtl (iMSEED + 1) (hi32 v)
def Thread.shape (th : Thread) (n : Nat) : Word := Tab.get 0 th.shapes n

/-- The limit of MCHK.E on every write (R94). -/
def clampMchk (w : Word) : Word :=
  let e := fld w 5 1
  setFld w 5 1 (if e < 8 then 8 else if e > 20 then 20 else e)

/-! ## General registers (R71, R100) -/

/-- Register number of a register field in the current window. -/
def Thread.regNo (th : Thread) (r : Nat) : Nat := if r < 8 then r else 8 + 8 * th.wp + (r - 8)
def Thread.regP (th : Thread) (n : Nat) : ParWord := Tab.get pw0 th.regs n
def Thread.setRegN (th : Thread) (n : Nat) (w : Word) : Thread := { th with regs := Tab.set pw0 th.regs n (pw w) }
def Thread.reg (th : Thread) (r : Nat) : Word := (th.regP (th.regNo r)).d
def Thread.setReg (th : Thread) (r : Nat) (w : Word) : Thread := th.setRegN (th.regNo r) w
def Thread.setRegs (th : Thread) : List (Nat × Word) → Thread
  | [] => th
  | (n, w) :: l => (th.setRegN n w).setRegs l

/-- A pending operation without its results for some registers. -/
def LongOp.strike (o : LongOp) (l : List Nat) : LongOp :=
  let k := (o.dests.zip o.res).filter (fun e => !l.contains e.1)
  if o.dests.any l.contains then { o with dests := k.map (·.1), res := k.map (·.2) } else o

/-- Registers are written over: a multiply or divide that is readable in a slot before the thread's next has written them before
(R55, R56, R59). -/
def Thread.strike (th : Thread) (l : List Nat) : Thread :=
  { th with ops := th.ops.map (fun o => if o.cls = 1 ∧ o.due < th.slotNo then o.strike l else o) }

/-- An instruction writes registers at the end of its last slot, which has been counted (R49, R59). -/
def Thread.writes (th : Thread) (l : List (Nat × Word)) : Thread := (th.setRegs l).strike (l.map (·.1))

/-- `n` data accesses, each in a slot of its own but under REP (R49, R50). -/
def Thread.accesses (th : Thread) (n : Nat) : Thread := if th.rep.isSome then th else th.slots n

/-! ## Counters (R482) -/

def State.count (s : State) (idx n : Nat) : State := { s with tally := Tab.set 0 s.tally idx (satAdd (Tab.get 0 s.tally idx) n) }

def cCruiseSweeps : Nat := 0x18
def cCruiseFound : Nat := 0x19
def cCruiseLost : Nat := 0x1A
def cRemoteRefused : Nat := 0x1B
def cFcParity : Nat := 0x1C
def cFcPrefetchDrop : Nat := 0x1D
def cFlmDiscard : Nat := 0x20
def cFlmClosedRx : Nat := 0x21
def cSkdFlush : Nat := 0x22
def cSkdSatc : Nat := 0x23
def cSkdNanc : Nat := 0x24
def cShareYield : Nat := 0x28
def cWardenLost : Nat := 0x29
def cNotifyDrop : Nat := 0x2A
def cMalformed : Nat := 0x2B
def cNoticeLost : Nat := 0x2C

/-- A packet whose payload would exceed 64 words is malformed: it is discarded and counted, in every core state (R33). -/
def State.discardLong (s : State) : State := if s.live then s.count cMalformed 1 else s

/-! ## Packets and notices (R29, R446, R483, R484) -/

/-- The four header words of a packet (R29): CLASS and PLEN, the destination, the source. -/
def Packet.header (p : Packet) : List Word :=
  [ wd (p.cls.toNat + 16 * p.payload.length), p.dst.setWidth 16,
    wd ((p.dst >>> 16).toNat + 256 * (p.src >>> 16).toNat), p.src.setWidth 16 ]

/-- A packet as the words that pass the port (R29). -/
def Packet.words (p : Packet) : List Word := p.header ++ p.payload

/-- The words that have left at GP_OUT, packet by packet. -/
def State.port (s : State) : List (List Word) := s.gpOut.map Packet.words

/-- A packet leaves GP_OUT. -/
def State.emit (s : State) (cls : Nat) (dst : CoreId) (payload : List Word) : State :=
  { s with gpOut := s.gpOut ++ [⟨BitVec.ofNat 4 cls, dst, s.ident, payload⟩] }

/-- Packet class codes (R30). -/
def clsFLM : Nat := 0
def clsFCR : Nat := 1
def clsFAR : Nat := 2
def clsFRS : Nat := 3
def clsMOV : Nat := 4
def clsATP : Nat := 5

/-- Notice codes (R484). -/
def nREADY : BitVec 8 := 0x80
def nFAULT : BitVec 8 := 0x81
def nFELL : BitVec 8 := 0x82
def nCLOCK : BitVec 8 := 0x83
def nSTILLNESS : BitVec 8 := 0x84
def nHOST : BitVec 8 := 0x85
def nSCRUB : BitVec 8 := 0x86

/-- Whether a notice enters the fault log (R483). -/
def logged (code : BitVec 8) : Bool := code != nREADY && code != nHOST

/-- Queues a notice: its TAG is spent even when the queue is full, and it enters the fault log (R446, R483). -/
def State.notify (s : State) (code : BitVec 8) (words : List Word) : State :=
  let tag := s.noticeSeq
  let s := { s with noticeSeq := tag + 1 }
  let s := if logged code then
      { s with faultLog := (([code.setWidth 16, tag] ++ words ++ List.replicate 10 0).take 12 :: s.faultLog).take 32 }
    else s
  if s.notices.length < 16 then { s with notices := s.notices ++ [⟨code, tag, words⟩] } else s.count cNoticeLost 1

/-- The word that carries a cause and its AUX (R484). -/
def causeWord (code aux : BitVec 8) : Word := wd (aux.toNat * 256 + code.toNat)

/-- A FAULT notice about a thread (R484). -/
def State.faultNotice (s : State) (t : Nat) (code aux : BitVec 8) (fpc faddr : Word) (more : List Word) : State :=
  s.notify nFAULT ([causeWord code aux, wd t, (s.thr t).wt.setWidth 16, fpc, faddr] ++ more)

/-- A FAULT notice about no thread (R484). -/
def State.faultNoticeNone (s : State) (code aux : BitVec 8) (faddr : Word) (more : List Word) : State :=
  s.notify nFAULT ([causeWord code aux, 0x8000, 0, 0, faddr] ++ more)

/-! ## Cause codes (R444) -/

def fILLEGAL : BitVec 8 := 0x01
def fPRIV : BitVec 8 := 0x02
def fCOMPARTMENT : BitVec 8 := 0x03
def fALIGN : BitVec 8 := 0x04
def fPARITY_LM : BitVec 8 := 0x05
def fPARITY_REG : BitVec 8 := 0x06
def fWINDOW_DEPTH : BitVec 8 := 0x07
def fSTACK_LIMIT : BitVec 8 := 0x08
def fDIV_ZERO : BitVec 8 := 0x09
def fGATE : BitVec 8 := 0x0A
def fTILE_SHAPE : BitVec 8 := 0x10
def fTILE_CFG : BitVec 8 := 0x11
def fBLAZE : BitVec 8 := 0x12
def fARRAY_CHECK : BitVec 8 := 0x13
def fARRAY_FELLED : BitVec 8 := 0x14
def fSTAT_OWNER : BitVec 8 := 0x15
def fTILE_VIEW : BitVec 8 := 0x16
def fSAVE_EMPTY : BitVec 8 := 0x17
def fFLUME_CLOSED : BitVec 8 := 0x20
def fFLUME_STALL : BitVec 8 := 0x21
def fFLUME_UNBOUND : BitVec 8 := 0x22
def fFLUME_OWNER : BitVec 8 := 0x23
def fSTILLNESS : BitVec 8 := 0x28
def fFAR_ERROR : BitVec 8 := 0x30
def fLATE_STORE : BitVec 8 := 0x31
def fFAR_CACHE_FATAL : BitVec 8 := 0x32
def fMOVER_ERROR : BitVec 8 := 0x38
def fDEADLINE_A : BitVec 8 := 0x40
def fDEADLINE_B : BitVec 8 := 0x41
def fESCALATED : BitVec 8 := 0x50
def fWINDTHROW : BitVec 8 := 0x60
def fDEBUG_BREAK : BitVec 8 := 0x61

/-- An item with no fixed frame PC. -/
def item (code aux : BitVec 8) (fpc faddr : Word) : Item := ⟨code, aux, fpc, faddr, none, false, none⟩

/-- Whether a thread may hold undelivered items (R513). -/
def Thread.takesItems (th : Thread) : Bool :=
  match th.st with
  | .running | .parked | .halted => true
  | _ => false

/-! ## Warden reports (R435, R436, R144) -/

/-- Queues a report for the warden, or drops it and counts it. DESIGN CHOICE: a find of cruise that meets both 4 awaiting finds
(R144) and a full queue of 8 (R436) counts CRUISE_LOST alone. Log entry 51. -/
def State.wardenReport (s : State) (it : Item) (cruise : Bool) : State :=
  let here := match s.warden with
    | some w => (s.thr w).st == .running || (s.thr w).st == .parked
    | none => false
  let finds := (s.wardenQ.filter (fun i => i.code = fPARITY_LM)).length
  if !here then (if cruise then s else s.count cWardenLost 1)
  else if cruise ∧ finds ≥ 4 then s.count cCruiseLost 1
  else if s.wardenQ.length ≥ 8 then s.count cWardenLost 1
  else { s with wardenQ := s.wardenQ ++ [it] }

/-- A find in group `g` with mask `m` of failing words, by cruise (R144) or by an inbound read (R145): counted, noticed, and
reported to the warden. -/
def State.cruiseFind (s : State) (aux : BitVec 8) (g m : Nat) (ovw : Bool) : State :=
  let low := ((List.range 4).find? (fun i => m.testBit i)).getD 0
  ((s.count cCruiseFound 1).notify nSCRUB [wd (4 * g), wd (m + 16 * b2n ovw)]).wardenReport
    (item fPARITY_LM aux 0 (wd (4 * g + low))) true

/-- The failing words of group `g` among the addresses that `use` names. -/
def State.badMask (s : State) (g : Nat) (use : Nat → Bool) : Nat :=
  (List.range 4).foldl (fun m i => if use (4 * g + i) && !parOk (s.mget (4 * g + i)) then m + 2 ^ i else m) 0

/-- Reports every group with a failing word among `n` words from `a` that an inbound read has found (R145, R403). -/
def State.inboundFinds (s : State) (a n : Nat) : State :=
  (List.range (groups a n)).foldl (fun s k =>
    let g := grp a + k
    let m := s.badMask g (fun x => decide (a ≤ x) && decide (x < a + n))
    if m = 0 then s else s.cruiseFind 0x0A g m false) s

/-! ## Event bits (R418) -/

/-- Sets EVPEND bit `v` of a thread that may hold items (R418, R513). -/
def State.setEv (s : State) (t v : Nat) : State :=
  if (s.thr t).takesItems then s.modThr t (fun th => th.setCtl iEVPEND (th.ctlW iEVPEND ||| wd (2 ^ v))) else s

/-! ## Retirement (R55, R59, R62) -/

/-- A producer's register writes reach the instructions held for them (R62): of two writes of one register the last (R110). -/
def Held.feed (h : Held) (id : Nat) (ws : List (Nat × Word)) : Held :=
  { h with
    srcs := h.srcs.map (fun x => match x with
      | .dep p r => if p = id then .val ((ws.reverse.lookup r).getD 0) else x
      | v => v)
    after := h.after.filter (· ≠ id) }

/-- Writes a producer's results and feeds the held instructions. -/
def Thread.produce (th : Thread) (id : Nat) (ws : List (Nat × Word)) : Thread :=
  let th := th.setRegs ws
  { th with held := th.held.map (fun h => h.feed id ws) }

/-- The register writes of operation `id`, which retires in cycle `cyc`: of two that write one register in one cycle the later-issued one
remains (R59), and what a multiply or divide has written before is written over. DESIGN CHOICE (log entry 56): retirements of a thread with
neither a slot of it nor a cycle between them are in one cycle. -/
def Thread.retireRegs (th : Thread) (cyc : Nat) (o : LongOp) (ws : List (Nat × Word)) : Thread :=
  let live := ws.filter (fun e => match Tab.find th.regBy e.1 with
    | some (c, k, j) => !(decide (c = cyc) && decide (k = th.slotNo) && decide (o.id < j))
    | none => true)
  let th := { th.setRegs live with regBy := live.foldl (fun m e => Tab.put m e.1 (cyc, th.slotNo, o.id)) th.regBy }
  if o.cls = 1 then th else th.strike (live.map (·.1))

/-- Retires long operation `id` of thread `t` with the values of its destination registers; nothing is written when the
operation is no longer the thread's (R433, R513). -/
def State.retire (s : State) (t id : Nat) (vals : List Word) : State :=
  match (s.thr t).ops.find? (fun o => o.id = id) with
  | none => s
  | some o =>
    s.modThr t (fun th =>
      let ws := o.dests.zip vals
      let th := th.retireRegs s.cycle o ws
      { th with held := th.held.map (fun h => h.feed id ws), ops := th.ops.filter (fun o => o.id ≠ id) })

/-- Whether operation `id` is still pending for thread `t`. -/
def State.hasOp (s : State) (t id : Nat) : Bool := (s.thr t).ops.any (fun o => o.id = id)

/-- Takes operation `id` out with its destination unchanged: the operation completed with a fault (R55, R164). Instructions held
for it read the destination as it stands. -/
def State.dropOp (s : State) (t id : Nat) : State :=
  match (s.thr t).ops.find? (fun o => o.id = id) with
  | none => s
  | some o =>
    s.modThr t (fun th =>
      { th with
        held := th.held.map (fun h => h.feed id (o.dests.map (fun n => (n, (th.regP n).d))))
        ops := th.ops.filter (fun o => o.id ≠ id) })

/-- The tallies of an instruction, each field stopping at its maximum (R213, R97). -/
def Thread.writeTallies (th : Thread) (c : Counts) : Thread :=
  (((th.setCtl iTALLY (wd (min c.flushi 0xFFFF))).setCtl (iTALLY + 1) (wd (min c.flusho 0xFFFF))).setCtl
    (iTALLY + 2) (wd (min c.satc 0xFF + 256 * min c.nanc 0xFF))).setCtl
    (iTALLY + 3) (wd (min c.chkskip 0xFF + 256 * min c.chkfail 0xFF))

/-- The tallies of operation `id`, which retires, faults or stops in cycle `cyc`: of two in one cycle those of the later-issued
remain (R214). -/
def Thread.setTallies (th : Thread) (cyc id : Nat) (c : Counts) : Thread :=
  if th.tallyBy.1 = cyc ∧ id < th.tallyBy.2 then th else { th.writeTallies c with tallyBy := (cyc, id) }

/-! ## Waking (R68, R69, R131) -/

/-- The thread leaves its wait; in bound mode DLB is disarmed at each resume (R131). -/
def Thread.unpark (th : Thread) : Thread :=
  { (if th.dlbBound.isSome then th.setDlb 0 else th) with st := .running, park := none }

/-- The thread parks; in bound mode DLB is armed with the bound (R131). -/
def Thread.parkOn (th : Thread) (k : ParkKind) (i : Instr) : Thread :=
  { (match th.dlbBound with
      | some b => th.setDlb b
      | none => th) with st := .parked, park := some ⟨k, i⟩ }

/-- Counts an undelivered completion fault and names it to Fraina (R422). -/
def State.countCompl (s : State) (t : Nat) (it : Item) : State :=
  (s.modThr t (fun th => { th with complMore := min (th.complMore + 1) 7 })).faultNotice t it.code it.aux it.fpc it.faddr []

/-- A completion fault reaches the thread (R421, R422): synchronously when the thread is held at the operation (`held`,
with `wake` when the hold is a park), else as the thread's item of vector 2. A held fault replaces an undelivered one; a fault
that finds one undelivered, held or not, is counted (R422, R441). At a SETTLE the fault of an MSTREAM is not delivered while
MROW.RES is 1 (R305). -/
def State.completion (s : State) (t : Nat) (held wake : Bool) (it : Item) : State :=
  let th := s.thr t
  if held && !(wake && it.mrow.isSome && th.mres) then
    if th.sync.isSome then s.countCompl t it
    else
      let s := match th.compl with
        | some old => (s.modThr t (fun th => { th with compl := none })).countCompl t old
        | none => s
      s.modThr t (fun th =>
        let th := if wake then th.unpark else th
        { th with sync := some { it with held := true, pc := some (it.pc.getD th.pc) } })
  else
    if th.compl.isSome || th.sync.any (·.held) then s.countCompl t it
    else s.modThr t (fun th => { th with compl := some it })

/-- A fault that wakes a parked thread, delivered while held at the instruction it waits in (R377, R379, R421). -/
def State.wakeFault (s : State) (t : Nat) (code aux : BitVec 8) : State :=
  let pc := (s.thr t).pc
  s.completion t true true ⟨code, aux, pc, 0, some pc, true, none⟩

/-- The thread is held at operation `id` under PSW.PRECISE, which was 1 at its issue (R61, R305, R421). -/
def Thread.heldAt (th : Thread) (id : Nat) : Bool :=
  th.precise && decide (th.st = .running) && th.ops.any (fun o => decide (o.id = id) && o.prec)

/-- The thread is parked at a SETTLE that waits for operation `id` (R125, R421). -/
def Thread.settlesOn (th : Thread) (id : Nat) : Bool :=
  match th.park with
  | some ⟨.settle ids, _⟩ => ids.contains id
  | _ => false

/-- Delivers the completion fault of a pending operation (R421, R422); of an operation that is no longer the thread's
nothing is delivered (R513). -/
def State.complete (s : State) (t id : Nat) (it : Item) : State :=
  let th := s.thr t
  if th.takesItems && s.hasOp t id then s.completion t (th.settlesOn id || th.heldAt id) (th.settlesOn id) it else s

/-- Delivers a completion fault that belongs to no pending operation (R396). -/
def State.completeLoose (s : State) (t : Nat) (it : Item) : State :=
  if (s.thr t).takesItems then s.completion t false false it else s

/-- LATE_STORE for a thread (R168, R422). -/
def State.lateStore (s : State) (t : Nat) (addr : Word) : State :=
  let th := s.thr t
  if ¬ th.takesItems then s
  else
    match th.late with
    | none => s.modThr t (fun th => { th with late := some (item fLATE_STORE 0 0 addr) })
    | some _ =>
      (s.modThr t (fun th => { th with lateMore := min (th.lateMore + 1) 7 })).faultNotice t fLATE_STORE 0 0 addr []

end Sys2Proof.Machine
end

