-- ==== Sys2Proof/Machine/Ends.lean ====
section
/-!
DEFINITION. Stopping a skidder lane (R396) and the operations on flume ends that every family shares: packets, credits,
state changes and the waking of parked threads (file 12).
-/
namespace Sys2Proof.Machine

/-! ## Lanes (R396) -/

/-- A MOV tag of a stopped lane: its response is discarded (R396). -/
def MovTag.drop (n : Nat) : MovTag → MovTag
  | .read l p k => if l = n then .dropped l else .read l p k
  | .write l => if l = n then .dropped l else .write l
  | .slotRead l => if l = n then .dropped l else .slotRead l
  | .slotWrite l => if l = n then .dropped l else .slotWrite l
  | .dropped l => .dropped l

/-- The send end on which a lane holds a credit for its completion message (R395). -/
def Lane.resvEnd (l : Lane) : Option Nat :=
  if l.st = .running ∧ l.phase = .reserved then some (fld (l.desc.getD 7 0) 8 4) else none

/-- A credit that a stopping lane holds goes back to its end, while that is OPEN. DESIGN CHOICE (log entry 48): R396 is silent. -/
def State.backCredit (s : State) (l : Lane) : State :=
  match l.resvEnd with
  | some e => s.modEnd e (fun x => if x.st = .opened then { x with credit := x.credit + 1 } else x)
  | none => s

/-- A RUNNING lane stops (R396); `fault` when the owner receives MOVER_ERROR. -/
def State.laneStop (s : State) (n : Nat) (reason : BitVec 8) (fault : Bool) : State :=
  let l := s.lane n
  if l.st ≠ .running then s
  else
    let t := laneOwner s.cfg n
    let s := (s.backCredit l).setLane n { l with st := .stopped, reason := reason, op := none, phase := .none, stopReq := false }
    let s := { s with movTags := s.movTags.mapVal (MovTag.drop n) }
    let it := item fMOVER_ERROR reason l.pc l.daddr
    match l.op with
    | some id => (if fault then s.complete t id it else s).retire t id []
    | none => if fault then s.completeLoose t it else s

/-! ## Status words (R354) -/

/-- The code of an end state (R354). -/
def EndSt.code : EndSt → Nat
  | .unbound => 0
  | .opened => 1
  | .closed => 2
  | .peerClosed => 3
  | .peerAbsent => 4

/-- Status words s0 to s3 of an end (R354). -/
def State.endStatus (s : State) (e : Nat) : List Word :=
  let x := s.fend e
  let snd := endDir s.cfg e
  let r := if snd then x.resv || s.lanes.any (fun l => l.2.resvEnd == some e) else x.held.isSome || x.tileHeld
  [ wd (x.st.code + 8 * (x.credit % 128) + 1024 * b2n r + 2048 * (if snd then x.landing.length else 0)),
    x.seq, x.pacc,
    if snd then x.pcon else wd (x.nextRow % 64 + 32768 * b2n x.armed) ]

/-! ## Packets (R368) -/

def State.outFlm (s : State) (p : Packet) : State := { s with flumeOut := s.flumeOut ++ [p] }

/-- Whether one more packet fits among the 8 of R363. -/
def State.flmRoom (s : State) : Bool := decide (s.flumeOut.length < 8)

def flmWord0 (dend srcEnd kind top : Nat) : Word := wd (dend % 32 + 32 * (srcEnd % 32) + 1024 * kind + 4096 * top)

/-- Hands off a message of `data` with the given sequence number (R362). -/
def State.sendMsg (s : State) (e : Nat) (seq : Word) (data : List Word) : State :=
  s.outFlm ⟨0, endPeer s.cfg e, s.ident, flmWord0 (endPend s.cfg e) e 0 (data.length - 1) :: seq :: data⟩

/-- CLOSE of a send end (R368). -/
def State.sendClose (s : State) (e : Nat) : State :=
  s.outFlm ⟨0, endPeer s.cfg e, s.ident, [flmWord0 (endPend s.cfg e) e 1 0, (s.fend e).seq]⟩

/-- CREDIT of a receive end (R367, R368). -/
def State.sendCredit (s : State) (e n : Nat) : State :=
  s.outFlm ⟨1, endPeer s.cfg e, s.ident, [flmWord0 (endPend s.cfg e) e 0 0, wd n]⟩

/-- CLOSED of a receive end (R368, R375). -/
def State.sendClosed (s : State) (e why : Nat) : State :=
  s.outFlm ⟨1, endPeer s.cfg e, s.ident, [flmWord0 (endPend s.cfg e) e 1 why, (s.fend e).seq, (s.fend e).pacc]⟩

/-! ## Credits and freeing (R361, R365, R367) -/

/-- Rows or slots of a receive end, C (R366). -/
def endC (c : Tab Word) (e : Nat) : Nat := endSlots c e + 1

/-- Reserves a credit for a landing that has none (R361). -/
def FEnd.reserve (x : FEnd) : FEnd :=
  if x.landing ≠ [] ∧ ¬ x.resv ∧ x.credit > 0 then { x with credit := x.credit - 1, resv := true } else x

/-- Sets EVPEND bit EVV of the owner when EVE = 1. -/
def State.endEvent (s : State) (e : Nat) : State :=
  if endEve s.cfg e then s.setEv (endOwner s.cfg e) (endEvv s.cfg e) else s

/-- Credits arrive at an OPEN send end (R361, R367). -/
def State.creditArrive (s : State) (e n : Nat) : State :=
  let x := s.fend e
  let s' := s.setEnd e { x with credit := x.credit + n }.reserve
  if x.credit = 0 ∧ n > 0 then s'.endEvent e else s'

/-- Frees the held slot of a RING end and returns credits under R367. -/
def State.freeSlot (s : State) (e : Nat) : State :=
  let x := s.fend e
  match x.held with
  | none => s
  | some _ =>
    let x := { x with held := none, credit := x.credit - 1, u := x.u + 1 }
    if x.u = 4 ∨ x.credit ≤ endC s.cfg e / 2 then (s.setEnd e { x with u := 0 }).sendCredit e x.u else s.setEnd e x

/-- Whether freeing the held slot would send a packet (R363, R367). -/
def State.freeSends (s : State) (e : Nat) : Bool :=
  let x := s.fend e
  x.held.isSome && (decide (x.u + 1 = 4) || decide (x.credit - 1 ≤ endC s.cfg e / 2))

/-! ## Taking (R364) -/

/-- Something is available to RECV. -/
def State.recvReady (s : State) (e : Nat) : Bool :=
  let x := s.fend e
  if endTile s.cfg e then x.armed && !x.tileHeld && decide (x.landed = endC s.cfg e) else decide (x.avail > 0)

/-- Something is available, or will be once accepted messages on their way are written (R359, R371, R377). -/
def State.leftToTake (s : State) (e : Nat) : Bool :=
  let x := s.fend e
  if endTile s.cfg e then
    x.armed && !x.tileHeld && decide (x.landed + (s.landWrites.filter (fun m => m.e = e)).length = endC s.cfg e)
  else decide (x.avail > 0) || s.ringWrites.any (fun m => decide (m.e = e))

/-- The value that a take writes: the slot address or the row count. -/
def State.takeVal (s : State) (e : Nat) : Word :=
  if endTile s.cfg e then wd (endC s.cfg e) else wd (slotAddr s.cfg e (s.fend e).take)

/-- Takes the oldest message or the landed tile; a held slot is freed first (R364, R378). -/
def State.take (s : State) (e : Nat) : State :=
  if endTile s.cfg e then s.modEnd e (fun x => { x with tileHeld := true, pacc := x.pacc + 1 })
  else
    let s := s.freeSlot e
    s.modEnd e (fun x =>
      { x with held := some x.take, take := (x.take + 1) % endC s.cfg e, avail := x.avail - 1, pacc := x.pacc + 1 })

/-! ## State changes (R374, R375, R377) -/

/-- Wakes the owner parked on an end that has left OPEN or has been unbound (R377). A receive end that closes under a RECV remembers it, so
that the RECV meets the closed end again after ERET. -/
def State.wakeOnEnd (s : State) (e : Nat) : State :=
  let t := endOwner s.cfg e
  let st := (s.fend e).st
  match (s.thr t).park with
  | some ⟨.sendE e', _⟩ =>
    if e' ≠ e then s
    else if st = .unbound then s.wakeFault t fFLUME_UNBOUND 0x01
    else if st ≠ .opened then s.wakeFault t fFLUME_CLOSED (BitVec.ofNat 8 e)
    else s
  | some ⟨.recv e', _⟩ =>
    if e' ≠ e then s
    else if st = .unbound then s.wakeFault t fFLUME_UNBOUND 0x01
    else if st = .closed then (s.modEnd e (fun x => { x with lost := true })).wakeFault t fFLUME_CLOSED (BitVec.ofNat 8 e)
    else if st = .peerClosed ∧ ¬ s.leftToTake e then s.wakeFault t fFLUME_CLOSED (BitVec.ofNat 8 e)
    else s
  | _ => s

/-- Lanes whose completion message waits for an end that has left OPEN stop with REASON 0x0D (R396). -/
def State.stopMessages (s : State) (e : Nat) : State :=
  (List.range 4).foldl (fun s n =>
    let l := s.lane n
    if l.st = .running ∧ (l.phase = .message ∨ l.phase = .reserved) ∧ fld (l.desc.getD 7 0) 8 4 = e then s.laneStop n 0x0D true else s) s

/-- The end has changed away from OPEN: event, waking, lanes (R375, R377, R396). -/
def State.leftOpen (s : State) (e : Nat) : State := ((s.endEvent e).wakeOnEnd e).stopMessages e

/-- The landing of a send end that leaves OPEN is discarded; the end remembers that it held words, so that a SEND.E meets the closed
end and not an empty landing (R363, R375, R377). -/
def FEnd.lose (x : FEnd) : FEnd := { x with landing := [], resv := false, lost := x.lost || decide (x.landing ≠ []) }

/-- What a receive end that closes keeps: every message is discarded, the landing is disarmed (R374, R375). -/
def FEnd.discard (x : FEnd) : FEnd :=
  { x with credit := 0, u := 0, fill := 0, take := 0, avail := 0, held := none, tileHeld := false, armed := false,
           nextRow := 0, landed := 0 }

/-- Messages on their way to a slot or row of the end are discarded with the ring. -/
def State.dropInbound (s : State) (e : Nat) : State :=
  { s with ringWrites := s.ringWrites.filter (fun m => m.e ≠ e), landWrites := s.landWrites.filter (fun m => m.e ≠ e) }

/-- A TILE end is no longer ARMED, and messages on their way to its tile are discarded (R217, R374). -/
def State.disarm (s : State) (e : Nat) : State :=
  ({ s with landWrites := s.landWrites.filter (fun m => m.e ≠ e) }).modEnd e (fun x => { x with armed := false })

/-- An OPEN receive end closes, with the WHY of the event (R375). -/
def State.closeRecv (s : State) (e why : Nat) : State :=
  let s := s.sendClosed e why
  ((s.dropInbound e).modEnd e (fun x => { x.discard with st := .closed })).leftOpen e

/-- An OPEN send end closes (R375). -/
def State.closeSend (s : State) (e : Nat) : State :=
  let s := s.sendClose e
  (s.modEnd e (fun x => { x.lose with st := .closed })).leftOpen e

/-- An OPEN send end leaves OPEN for PEER_CLOSED or PEER_ABSENT (R375). -/
def State.peerGone (s : State) (e : Nat) (st : EndSt) (pacc pcon : Word) : State :=
  (s.modEnd e (fun x => { x.lose with st := st, pacc := pacc, pcon := pcon })).leftOpen e

/-- FLUME_UNBIND, or an unbinding by transaction (R375). -/
def State.unbindEnd (s : State) (e : Nat) : State :=
  let x := s.fend e
  let s := if x.st = .opened ∨ x.st = .peerClosed then (if endDir s.cfg e then s.sendClose e else s.sendClosed e 4) else s
  let s := (s.dropInbound e).modEnd e (fun x =>
    if endDir s.cfg e then { x with st := .unbound, landing := [], resv := false } else { x.discard with st := .unbound })
  let s := if x.st = .opened then s.endEvent e else s
  (s.wakeOnEnd e).stopMessages e

/-- FLUME_BIND, a load or a commit opens an end with the configuration in force (R375). -/
def State.openEnd (s : State) (e : Nat) : State :=
  s.setEnd e { FEnd.init with st := .opened, credit := if endDir s.cfg e then endCred0 s.cfg e else 0 }

/-- The ends of a thread that is reset (`why` 1) or felled (`why` 2) (R374, R375). -/
def State.ownerEnds (s : State) (t why : Nat) : State :=
  (List.range 32).foldl (fun s e =>
    let x := s.fend e
    if x.st = .unbound ∨ endOwner s.cfg e ≠ t then s
    else if endDir s.cfg e then
      if x.st ≠ .opened then s
      else if why = 2 then s.closeSend e
      else s.setEnd e { x with landing := [], resv := false, credit := if x.resv then x.credit + 1 else x.credit }
    else if x.st = .opened then s.closeRecv e why
    else s.disarm e) s

/-- What a warm reset (`why` 3), or FAULTED (`why` 2), sends for the OPEN ends (R376, R438). -/
def State.sendAllClosed (s : State) (why : Nat) : State :=
  (List.range 32).foldl (fun s e =>
    if (s.fend e).st ≠ .opened then s
    else if endDir s.cfg e then s.sendClose e
    else s.sendClosed e why) s

end Sys2Proof.Machine
end

