-- ==== Sys2Proof/Machine/Entry.lean ====
section
/-!
DEFINITION. Taking an exception (file 14): the end of a thread's work at a reset or felling, felling (R433, R434, R518),
the frame check (R428), the delivery of an item (R424 to R426), the choice of the item (R417 to R419), the stop of a held
tile or matrix operation (R239, R307), the lazy spills (R225, R430) and the return (R431).
-/
namespace Sys2Proof.Machine

/-! ## The work of a thread that is reset or felled (R309, R351, R375, R398, R433, R514) -/

/-- An array without a thread's work: its waiting passes are discarded, its started passes write nothing, its fills that have
not begun are dropped, and its records, table owners and chains are cleared (R266, R267, R304, R309, R433). DESIGN CHOICE (log entry 58): of
a fill R309 speaks only once it has begun; one that has not begun, of an MSTAT or an MTAB, is dropped. -/
def Arr.dropThread (a : Arr) (t : Nat) : Arr :=
  { a with
    passes := (a.passes.filter (fun p => !(decide (p.tid = t) && decide (p.phase = .waiting)))).map
      (fun p => if p.tid = t then { p with orphan := true } else p)
    streams := a.streams.filter (fun m => m.tid ≠ t)
    jobs := a.jobs.filter (fun j => !(decide (j.tid = t) && decide (j.next = 0) && decide (j.run = 0)))
    recs := a.recs.filter (fun e => e.2.owner ≠ t)
    tabs := a.tabs.mapVal (fun x => if x.owner = some t then { x with owner := none } else x)
    chains := a.chains.filter (fun e => e.2.holder ≠ t)
    chainBufs := a.chainBufs.filter (fun e => e.2.tid ≠ t) }

/-- A merging-buffer entry that no longer records a thread (R168). -/
def MergeEntry.forget (m : MergeEntry) (t : Nat) : MergeEntry := { m with threads := m.threads.filter (· ≠ t) }

def FarTag.forget (t : Nat) : FarTag → FarTag
  | .entry m => .entry (m.forget t)
  | x => x

/-- The thread that a service would answer, once thread `t` is gone: 64 is no thread. -/
def svcGone (t : Nat) (o : Option Nat) : Option Nat := if o = some t then some 64 else o

/-- A switch, a frequency count or an array test that a thread's service began goes on and answers nobody. -/
def State.dropService (s : State) (t : Nat) : State :=
  { s with
    clk := { s.clk with
      switch := s.clk.switch.map (fun w : Switch => { w with svc := svcGone t w.svc })
      queue := s.clk.queue.map (fun w : Switch => { w with svc := svcGone t w.svc })
      freq := s.clk.freq.map (fun j : FreqJob => { j with svc := svcGone t j.svc }) }
    arrs := s.arrs.mapVal (fun a : Arr => { a with testing := svcGone t a.testing }) }

/-- A store that waits for an entry of the merging buffer is still sent and no longer records its thread (R168). -/
def FarOp.forget (t : Nat) (o : FarOp) : FarOp := if o.tid = t ∧ o.wait = .merge then { o with tid := 64 } else o

/-- Ends the work of thread `t`; `why` is 1 for a reset and 2 for a felling. -/
def State.dropWork (s : State) (t why : Nat) : State :=
  let s := s.dropService t
  let s := { s with
    eng := s.eng.mapVal (fun q => q.filter (fun o => o.tid ≠ t))
    arrs := s.arrs.mapVal (fun a => a.dropThread t)
    rowQ := s.rowQ.filter (fun o => o.tid ≠ t)
    rowCur := s.rowCur.filter (fun o => o.tid ≠ t)
    farOps := s.farOps.map (FarOp.forget t)
    merge := s.merge.map (fun m : MergeEntry => m.forget t)
    tags := s.tags.mapVal (FarTag.forget t) }
  let s := (List.range 4).foldl (fun s n => if laneOwner s.cfg n = t then s.laneStop n 0x0C false else s) s
  s.ownerEnds t why

/-- A thread without undelivered items, program events among them, pending work or deadlines (R433, R513). -/
def Thread.quiet (th : Thread) : Thread :=
  { ((th.setDla 0).setDlb 0).setCtl iEVPEND 0 with
    dlaDue := false, dlbDue := false, park := none, waiting := none, again := false, ops := [], held := [],
    rep := none, sync := none, compl := none, complMore := 0, late := none, lateMore := 0, deadlines := [], still := none,
    tvoid := none, haltReq := none, stepping := false, skipBreak := false, skipWatch := false, framePsw := none, commitHold := false,
    service := none }

/-- The reports of a warden that is reset or felled are dropped and counted (R436, R513). -/
def State.dropReports (s : State) (t : Nat) : State :=
  if s.warden = some t then ({ s with wardenQ := [] }).count cWardenLost s.wardenQ.length else s

/-! ## Deadlines (R380, R439, R440) -/

/-- CAUSE.AUX of a deadline: the kind of wait. -/
def Thread.waitAux (th : Thread) : BitVec 8 :=
  match th.st, th.park with
  | .parked, some p =>
    match p.kind with
    | .settle _ => 0x40
    | .array _ => 0x41
    | .wait v => BitVec.ofNat 8 (0x60 + v)
    | .sendE e => BitVec.ofNat 8 (0x80 + e)
    | .recv e => BitVec.ofNat 8 (0x80 + e)
  | _, _ => 0

/-- The global core identifier of the peer of the end that the thread waits on, low word first (R380). -/
def Thread.waitPeer (th : Thread) (cfg : Tab Word) : List Word :=
  match th.st, th.park with
  | .parked, some ⟨.sendE e, _⟩ => [idLo (endPeer cfg e), idHi (endPeer cfg e)]
  | .parked, some ⟨.recv e, _⟩ => [idLo (endPeer cfg e), idHi (endPeer cfg e)]
  | _, _ => []

/-- The PC of the instruction in execution or waited in: the target of a REP in force, or the operation at which PSW.PRECISE
holds the thread (R439). -/
def Thread.execPc (th : Thread) : Word :=
  match th.rep with
  | some r => r.tgt
  | none =>
    match th.ops.getLast? with
    | some o => if th.precise ∧ th.st = .running then o.pc else th.pc
    | none => th.pc

/-- A counter that has reached 0: an item of vector 4, and a FAULT notice. -/
def State.deadline (s : State) (t : Nat) (code : BitVec 8) (more : List Word) : State :=
  let th := s.thr t
  let it := item code th.waitAux th.execPc 0
  let s := s.faultNotice t it.code it.aux it.fpc it.faddr more
  if th.takesItems then s.modThr t (fun th => { th with deadlines := th.deadlines ++ [it] }) else s

/-- The expiries of a thread that have not been told: its items, and the notices that go to Fraina whatever becomes of the thread
(R439, R513). -/
def State.tellDeadlines (s : State) (t : Nat) : State :=
  let s := if (s.thr t).dlaDue then (s.modThr t (fun th => { th with dlaDue := false })).deadline t fDEADLINE_A [] else s
  if (s.thr t).dlbDue then
    (s.modThr t (fun th => { th with dlbDue := false })).deadline t fDEADLINE_B ((s.thr t).waitPeer s.cfg)
  else s

/-- Fells a thread: nothing is pushed, its work ends, and the last-gasp record, the FELL notice and the warden report carry
the given values (R433 to R436). -/
def State.fell (s : State) (t : Nat) (reason : BitVec 8) (pc psw cause fpc faddr : Word) : State :=
  let th := s.thr t
  let cnt := min (fld (Tab.get 0 th.lastgasp 7) 15 8 + 1) 0xFF
  let ssp := th.ctlW iSSP
  let lg : List Word := [wd (0xFF + 256 * reason.toNat), pc, psw, cause, fpc, faddr, ssp, wd (th.wp + 256 * cnt)]
  let s := (s.tellDeadlines t).modThr t (fun th => { th.quiet with st := .felled, lastgasp := Tab.setList 0 [] 0 lg })
  let s := (s.dropReports t).dropWork t 2
  let s := s.notify nFELL ([0, wd t] ++ lg)
  if s.warden = some t then s
  else s.wardenReport ⟨reason, BitVec.ofNat 8 (0x40 + t), pc, ssp, none, false, none⟩ false

/-! ## Checks of frame memory -/

/-- The first of `n` words from `a` whose compartment check fails; words past 0xFFFF fail (R428, R430). -/
def State.firstBad (s : State) (wt : WT) (a n : Nat) (p : Perm) : Option Nat :=
  ((List.range n).map (a + ·)).find? (fun x => decide (x > 0xFFFF) || (granCheck s.cfg wt (x / 256) p).isSome)

/-- The checks of R428: the reason of the first that fails. -/
def State.frameCheck (s : State) (th : Thread) : Option (BitVec 8) :=
  let ssp := (th.ctlW iSSP).toNat
  if ¬ parOk (th.ctlP iSSP) ∨ ¬ parOk (th.useP iSBASE) ∨ ¬ parOk (th.useP iEVB) then some fPARITY_REG
  else if ssp % 2 = 1 then some fALIGN
  else if ssp < 28 ∨ ssp - 28 < (th.useW iSBASE).toNat then some fSTACK_LIMIT
  else if (s.firstBad th.wt (ssp - 28) 28 .w).isSome then some fCOMPARTMENT
  else none

/-! ## Delivery (R424 to R426) -/

/-- What is delivered: a fault (synchronous or not), a program event, a timing-void item, a warden report, or a gate with its
handler and mask. -/
inductive EntryKind where
  | fault (sync : Bool)
  | event
  | tvoid
  | report
  | gate (handler : Word) (gmask : Nat)
  deriving DecidableEq, Repr

structure Delivery where
  kind : EntryKind
  code : BitVec 8
  aux : BitVec 8
  fpc : Word
  faddr : Word
  pc : Word
  level : Nat
  vector : Nat
  held : Bool
  more : Nat
  mrow : Option (Word × Word)
  deriving DecidableEq, Repr

def EntryKind.isFault : EntryKind → Bool
  | .fault _ => true
  | _ => false

/-- A synchronous fault whose level does not exceed PSW.MASK escalates (R424). -/
def Delivery.escalates (d : Delivery) (mask : Nat) : Bool := decide (d.kind = .fault true) && decide (d.level ≤ mask)

/-- The escalation of a fault (R424). -/
def Delivery.escalate (d : Delivery) (mask : Nat) : Delivery :=
  if d.escalates mask then { d with code := fESCALATED, aux := d.code, level := 8, vector := 0 } else d

/-- Whether no rule names the PC that the entry records: gates, program events, timing-void items, and the warden reports but
cruise finds (R144) and fellings (R435). -/
def Delivery.pcOpen (d : Delivery) : Bool :=
  match d.kind with
  | .fault _ => false
  | .report => d.code = fWINDTHROW || d.code = fARRAY_FELLED || d.code = fSTILLNESS
  | _ => true

/-- The entry with the PC that FADDR.PC gets, which is open where no rule names one (log entry 38). -/
def Delivery.withPc (d : Delivery) (old : Word) : Delivery :=
  if d.pcOpen then { d with fpc := Config.entryPc d.code d.aux d.pc old } else d

/-- The header of the frame (R426); the PSW after a RESTL that took PARITY_LM is that of its issue (R88). -/
def Thread.header (th : Thread) (d : Delivery) : List Word :=
  let m := d.mrow.getD (th.mrow0, th.mrow1)
  [ d.pc, th.framePsw.getD th.psw, causeWord d.code d.aux, d.fpc, d.faddr, th.ctlW iLCNT, m.1, m.2, wd th.wp,
    wd (b2n th.lfill + 2 * b2n th.sfill + 4 * b2n d.held + 8 * d.more), 0, 0 ]

/-- PSW after entry (R425). -/
def entryPsw (psw : Word) (d : Delivery) : Word :=
  let mask := match d.kind with
    | .gate _ g => max (fld psw 2 0) g
    | _ => min d.level 7
  let w := setFld (setFld psw 2 0 mask) 3 3 1
  if d.level = 8 ∧ d.kind ≠ .report then setFld w 4 4 1 else w

/-- Exception entry: the flow of R425, which takes 6 slots (R429). -/
def State.enter (s : State) (t : Nat) (d0 : Delivery) : State :=
  let d := (d0.escalate (s.thr t).mask).withPc ((s.thr t).ctlW iFPC)
  let s := if d0.escalates (s.thr t).mask then s.faultNotice t d.code d.aux d.fpc d.faddr [] else s
  let s := s.modThr t (fun th => th.syncRws.syncShapes)
  let th := s.thr t
  let fell (reason : BitVec 8) : State := s.fell t reason d.pc (th.framePsw.getD th.psw) (causeWord d.code d.aux) d.fpc d.faddr
  if d.kind.isFault && th.esc then fell fESCALATED
  else
    match s.frameCheck th with
    | some r => fell r
    | none =>
      let ssp := th.ctlW iSSP - 28
      let s := s.msetList ssp.toNat (th.header d)
      s.modThr t (fun th =>
        let th := ((th.setCtl iCAUSE (causeWord d.code d.aux)).setCtl iFPC d.fpc).setCtl iFADDR d.faddr
        let th := ((th.setCtl iSSP ssp).setCtl iLCNT 0).setMrow 0 0
        let th := th.setCtl iPSW (entryPsw th.psw d)
        let pc := match d.kind with
          | .gate h _ => h
          | _ => th.useW iEVB + wd (4 * d.vector)
        { (th.setPc pc).slots 6 with
          lfill := false, sfill := false, rep := none, waiting := none, again := false, framePsw := none,
          stepping := false, haltReq := if th.stepping then some .dbgStep else th.haltReq })

/-! ## The choice of the item (R417 to R419, R422, R305) -/

inductive Pick where
  | still
  | report (i : Nat)
  | compl
  | late
  | deadline
  | tvoid
  | event (v : Nat)
  deriving DecidableEq, Repr

/-- The deliverable items of a thread with level and vector, oldest first within a vector (R417 to R419). -/
def State.deliverables (s : State) (t : Nat) : List (Nat × Nat × Pick) :=
  let th := s.thr t
  let reports : List (Nat × Nat × Pick) :=
    if s.warden = some t then
      (List.range s.wardenQ.length).map (fun i =>
        ((if ((s.wardenQ[i]?).map (·.code)) = some fWINDTHROW then 8 else 7), 5, .report i))
    else []
  let all : List (Nat × Nat × Pick) :=
    (if th.still.isSome then [(8, 0, .still)] else []) ++ reports ++
    (match th.compl with
      | some it => if it.mrow.isSome ∧ th.mres then [] else [(5, 2, .compl)]
      | none => []) ++
    (if th.late.isSome then [(5, 3, .late)] else []) ++
    (if th.deadlines ≠ [] then [(6, 4, .deadline)] else []) ++
    (if th.tvoid.isSome then [(1, 7, .tvoid)] else []) ++
    ((List.range 8).map (· + 8)).filterMap (fun v =>
      if bit (th.ctlW iEVPEND) v && bit (th.ctlW iEVEN) v then some (v - 8, v, .event v) else none)
  all.filter (fun c => decide (c.1 ≥ 8) || decide (c.1 > th.mask))

/-- Whether the first candidate goes before the second (R419). -/
def pickBefore (a b : Nat × Nat × Pick) : Bool :=
  decide (a.1 > b.1) || (decide (a.1 = b.1) && decide (a.2.1 ≤ b.2.1))

/-- The deliverable item of highest level, then lowest vector, then oldest (R419). -/
def State.choose (s : State) (t : Nat) : Option (Nat × Nat × Pick) :=
  (s.deliverables t).foldl (fun best c => match best with
    | none => some c
    | some b => if pickBefore b c then some b else some c) none

/-- The delivery of the chosen item, and the state in which the item is no longer undelivered. -/
def State.takePick (s : State) (t : Nat) (c : Nat × Nat × Pick) : State × Option Delivery :=
  let th := s.thr t
  let mk (kind : EntryKind) (it : Item) (more : Nat) : Delivery :=
    { kind := kind, code := it.code, aux := it.aux, fpc := it.fpc, faddr := it.faddr, pc := it.pc.getD th.pc, level := c.1,
      vector := c.2.1, held := it.held, more := more, mrow := it.mrow }
  match c.2.2 with
  | .still => (s.modThr t (fun th => { th with still := none }), th.still.map (fun it => mk (.fault false) it 0))
  | .report i => ({ s with wardenQ := s.wardenQ.eraseIdx i }, (s.wardenQ[i]?).map (fun it => mk .report it 0))
  | .compl =>
    (s.modThr t (fun th => { th with compl := none, complMore := 0 }), th.compl.map (fun it => mk (.fault false) it th.complMore))
  | .late =>
    (s.modThr t (fun th => { th with late := none, lateMore := 0 }), th.late.map (fun it => mk (.fault false) it th.lateMore))
  | .deadline => (s.modThr t (fun th => { th with deadlines := th.deadlines.drop 1 }), th.deadlines.head?.map (fun it => mk (.fault false) it 0))
  | .tvoid => (s.modThr t (fun th => { th with tvoid := none }), th.tvoid.map (fun it => mk .tvoid it 0))
  | .event v =>
    (s.modThr t (fun th => th.setCtl iEVPEND (wd ((th.ctlW iEVPEND).toNat - 2 ^ v))),
      some (mk .event (item 0 (BitVec.ofNat 8 v) 0 0) 0))

/-! ## Stopping a held TLD, TST or MSTREAM (R239, R307) -/

/-- Takes a tile operation off its engine. -/
def State.offEngine (s : State) (id : Nat) : State :=
  { s with eng := s.eng.mapVal (fun q => q.filter (fun o => o.id ≠ id)) }

/-- A TLD or TST stops at a row boundary (R239); the slot of a sealed TST is left holding 0xFFFF_FFFF. -/
def State.stopTile (s : State) (o : TileOp) : State :=
  let s := s.offEngine o.id
  let s := if o.kind = .tst then s.msetList o.slot [0xFFFF, 0xFFFF] else s
  match o.kind, o.badAt with
  | .tldU, some a =>
    let s := s.setPoison o.tile true
    (s.complete o.tid o.id ⟨fPARITY_LM, 0x04, o.pc, wd a, none, true, none⟩).dropOp o.tid o.id
  | _, _ => (s.dropOp o.tid o.id).modThr o.tid (fun th => (th.setMrow o.row 0x8000).setPc o.pc)

/-- The row count of a shape word less one, its type and its element count (file 07). -/
def shRows (w : Word) : Nat := fld w 5 0
def shType (w : Word) : ETy := ETy.ofCode (fld w 8 6)
def shElems (w : Word) : Nat := fld w 15 9
def shWpr (w : Word) : Nat := (shType w).wpr (shElems w + 1)

/-- The engines' operation with an identifier. -/
def State.tileOp (s : State) (id : Nat) : Option TileOp :=
  ((s.engQ 0) ++ (s.engQ 1)).find? (fun o => o.id = id)

/-- The chain state of a slot after a stop withdraws a pass of a chain: as it was before the pass (R266, R307). -/
def Arr.unchain (x : Arr) (p : Pass) : Arr :=
  if ¬ p.inChain then x
  else if bit (p.desc.getD 0 0) 6 then { x with chains := Tab.del x.chains p.slot }
  else if bit (p.desc.getD 0 0) 5 then { x with chains := Tab.put x.chains p.slot ⟨p.chain, p.tid, p.firstPc⟩ }
  else x

/-- Stops an MSTREAM at the first pass not started (R307). -/
def Arr.stopStream (x : Arr) (sid : Nat) : Arr :=
  match x.passes.find? (fun p => p.sid = sid && p.phase = .waiting) with
  | none => x
  | some p =>
    { x.unchain p with
      passes := x.passes.filter (fun q => !(decide (q.sid = sid) && decide (q.phase = .waiting)))
      streams := x.streams.map (fun m => if m.id = sid then { m with stopAt := some p.p } else m) }

/-- Asks for the stop of the operation at which PSW.PRECISE holds the thread: a TLD or TST between two rows stops at once, one
within a row at the end of that row, and an MSTREAM starts no further pass. An operation issued before PSW.PRECISE became 1 is
none at which the thread is held. -/
def State.stopHeld (s : State) (t : Nat) : State :=
  match (s.thr t).ops with
  | [op] =>
    if ¬ op.prec then s
    else
    match s.tileOp op.id with
    | some o =>
      if o.kind = .tzero ∨ o.finished ∨ o.row > shRows o.shape then s
      else if o.cyc = 0 then s.stopTile o
      else { s with eng := s.eng.mapVal (fun q => q.map (fun o => if o.id = op.id then { o with stopReq := true } else o)) }
    | none =>
      (List.range 2).foldl (fun s a =>
        s.modArr a (fun x => x.stopStream op.id)) s
  | _ => s

/-- The thread takes no item now (R419). -/
def Thread.itemHold (th : Thread) : Bool :=
  th.haltReq.isSome || th.service.isSome || decide (th.held ≠ []) ||
    (match th.rep with
      | some r => !r.interruptible
      | none => false)

/-- Takes the chosen item (R419, R425). -/
def State.takeItem (s : State) (t : Nat) : State :=
  match s.choose t with
  | none => s
  | some c =>
    let s := if (s.thr t).st = .parked then s.modThr t Thread.unpark else s
    match s.takePick t c with
    | (s, some d) => s.enter t d
    | (s, none) => s

/-- The credit or the message that a parked thread waits for is there: the instruction completes before an item is taken (R378). -/
def State.parkReady (s : State) (t : Nat) : Bool :=
  match (s.thr t).st, (s.thr t).park with
  | .parked, some ⟨.sendE e, _⟩ => (s.fend e).resv
  | .parked, some ⟨.recv e, _⟩ => s.recvReady e
  | _, _ => false

/-- EXCEPTION_ENTRY at a slot start (R419 to R425): a synchronous fault first, else the deliverable item of highest level. A
thread held under PSW.PRECISE takes an item once its operation has retired or stopped. A fault delivered while held carries the
count of further completion faults (R422). -/
def State.exceptionEntry (s : State) (t : Nat) : State :=
  let th := s.thr t
  if ¬ (th.st = .running ∨ th.st = .parked) then s
  else
    match th.sync with
    | some it =>
      if th.haltReq.isSome ∨ th.held ≠ [] then s
      else
        let lvl := if it.held then 5 else 6
        (s.modThr t (fun th => { th with sync := none, complMore := if it.held then 0 else th.complMore })).enter t
          { kind := .fault true, code := it.code, aux := it.aux, fpc := it.fpc, faddr := it.faddr, pc := it.pc.getD th.pc,
            level := lvl, vector := 1, held := it.held, more := if it.held then th.complMore else 0, mrow := it.mrow }
    | none =>
      if th.itemHold ∨ s.parkReady t ∨ (s.choose t).isNone then s
      else if th.precise ∧ th.ops ≠ [] ∧ th.st = .running then
        let s := s.stopHeld t
        if (s.thr t).ops = [] ∧ (s.thr t).sync = none then s.takeItem t else s
      else s.takeItem t

/-! ## Lazy spills (R225, R430, R518) -/

/-- Felling without an exception entry (R518); the spilling instruction of a REP is its target. -/
def State.fellAt (s : State) (t : Nat) (reason : BitVec 8) (faddr : Word) : State :=
  let th := s.thr t
  let pc := (th.rep.map (·.tgt)).getD th.pc
  s.fell t reason pc th.psw (causeWord reason 0) pc faddr

/-- Spills L0 to L7 of the current window in 4 slots (R430); the thread is felled when an area word may not be written (R430). -/
def State.spillL (s : State) (t : Nat) : State :=
  let th := s.thr t
  let ssp := (th.ctlW iSSP).toNat
  match s.firstBad th.wt (ssp + 12) 16 .w with
  | some a => s.fellAt t fCOMPARTMENT (wd a)
  | none =>
    (s.msetList (ssp + 12) ((List.range 8).map (fun n => th.reg (8 + n)))).modThr t (fun th => { th.slots 4 with lfill := true })

/-- Spills the active shapes (R225). -/
def State.spillShapes (s : State) (t : Nat) : State :=
  let th := s.thr t
  let ssp := (th.ctlW iSSP).toNat
  match s.firstBad th.wt (ssp + 12) 16 .w with
  | some a => s.fellAt t fCOMPARTMENT (wd a)
  | none => (s.msetList (ssp + 20) ((List.range 8).map th.shape)).modThr t (fun th => { th.slots 4 with sfill := true })

/-! ## Return (R129, R431) -/

/-- A precise fault of the instruction at PC, to be delivered in the thread's next slot (R420). Under REP the frame records
the prefix and FADDR.PC the target (R120); `s.thr t` keeps the prefix as its PC. -/
def State.precise (s : State) (t : Nat) (code aux : BitVec 8) (fpc faddr : Word) : State :=
  s.modThr t (fun th =>
    { th with sync := some ⟨code, aux, fpc, faddr, some th.pc, false, none⟩, waiting := none, again := false, rep := none,
              stepping := false, haltReq := if th.stepping then some .dbgStep else th.haltReq })

/-- ERET at ring 2 (R431): a failing word ends it in the slot of its access (R51). -/
def State.eret (s : State) (t : Nat) : State :=
  let s := s.modThr t (fun th => th.syncRws.syncShapes)
  let th := s.thr t
  let ssp := (th.ctlW iSSP).toNat
  if ssp % 2 = 1 then s.fellAt t fALIGN (wd ssp)
  else if ssp + 28 > 0x10000 then s.fellAt t fSTACK_LIMIT (wd ssp)
  else
    match s.firstBad th.wt ssp 28 .r with
    | some a => s.fellAt t fCOMPARTMENT (wd a)
    | none =>
      let reads := (List.range 12) ++ (if th.lfill then (List.range 8).map (· + 12) else []) ++
        (if th.sfill then (List.range 8).map (· + 20) else [])
      match reads.find? (fun i => !parOk (s.mget (ssp + i))) with
      | some i => (s.modThr t (fun th => th.slots (reads.idxOf i / 2 + 1))).precise t fPARITY_LM 0x07 th.pc (wd (ssp + i))
      | none =>
        let w (i : Nat) : Word := (s.mget (ssp + i)).d
        s.modThr t (fun th =>
          let lf := th.lfill
          let sf := th.sfill
          let psw := wd (((w 1).toNat &&& 0x003F) ||| (th.psw.toNat &&& 0x1000))
          let th := (((th.slots (6 + 4 * b2n lf + 4 * b2n sf)).setCtl iPSW psw).setCtl iLCNT (w 5)).setMrow (w 6).toNat (w 7)
          let th := th.setCtl iWP (wd (fld (w 8) 1 0))
          let th := if lf then th.writes ((List.range 8).map (fun n => (th.regNo (8 + n), w (12 + n)))) else th
          let th := if sf then { th with shapes := (List.range 8).foldl (fun m n => Tab.set 0 m n (w (20 + n))) th.shapes } else th
          { ((th.setCtl iSSP (wd (ssp + 28))).setPc (w 0)) with
            lfill := bit (w 9) 0, sfill := bit (w 9) 1 })

end Sys2Proof.Machine
end

