-- ==== Sys2Proof/Machine/Operands.lean ====
section
/-!
DEFINITION. Operands: what an instruction reads, writes and needs at issue, the operations on registers (R105 to R110, R107),
and the addressing forms of local memory (R111). The core has no condition flags (file 04), so no flag is computed.
-/
namespace Sys2Proof.Machine

/-- What the issue of an instruction depends on: its words, the register fields it reads and writes, the control words it
uses, whether it needs the supervisor level, the AUX of an ILLEGAL_OP it takes at decode, whether it spills L registers
beside its own writes (RESTH), and its kinds. -/
structure Pre where
  words : Nat := 1
  reads : List Nat := []
  writes : List Nat := []
  uses : List Nat := []
  sup : Bool := false
  illegal : Option (BitVec 8) := none
  /-- That AUX comes from a field of the second word, which is fetched and checked first (R104). -/
  late : Bool := false
  spills : Bool := false
  /-- A register-to-register simple instruction (R62) with its operation. -/
  alu : Option Alu := none
  /-- A long operation (R54). -/
  long : Bool := false
  /-- A permitted REP target (R116). -/
  target : Bool := false
  /-- An encoding of a REP prefix (R114). -/
  isRep : Bool := false
  /-- Further registers touched, by register number (CALL, ERET, SAVEH). -/
  regNos : List Nat := []
  deriving DecidableEq, Repr

/-- A bit as a word (R109). -/
def bw (b : Bool) : Word := if b then 1 else 0

/-- Adds with the carry bit of `rc`: the sum and the carry (R110). -/
def adcOp (rd rs rc : Word) : Word × Word :=
  let t := rd.toNat + rs.toNat + rc.toNat % 2
  (wd t, bw (decide (t ≥ 65536)))

/-- Subtracts with the borrow bit of `rc`: the difference and the borrow (R110). -/
def sbcOp (rd rs rc : Word) : Word × Word :=
  (rd - rs - (rc &&& 1), bw (decide (rd.toNat < rs.toNat + rc.toNat % 2)))

/-- The results of a register-to-register instruction from the values of its sources (R105, R106, R108, R110). -/
def Alu.eval (op : Alu) (v : List Word) : List Word :=
  let a := v.getD 0 0
  let b := v.getD 1 0
  match op with
  | .add => [a + b]
  | .sub => [a - b]
  | .seq => [bw (a == b)]
  | .sne => [bw (a != b)]
  | .slt => [bw (a.slt b)]
  | .sltu => [bw (a.ult b)]
  | .sle => [bw (a.sle b)]
  | .sleu => [bw (a.ule b)]
  | .mov => [a]
  | .and => [a &&& b]
  | .or => [a ||| b]
  | .xor => [a ^^^ b]
  | .shl => [a <<< fld b 3 0]
  | .shr => [a >>> fld b 3 0]
  | .sra => [a.sshiftRight (fld b 3 0)]
  | .rol => [a.rotateLeft (fld b 3 0)]
  | .not => [~~~a]
  | .neg => [0 - a]
  | .addi i => [a + i.signExtend 16]
  | .shli c => [a <<< c.toNat]
  | .shri c => [a >>> c.toNat]
  | .srai c => [a.sshiftRight c.toNat]
  | .zxb => [a &&& 0x00FF]
  | .sxb => [(a.setWidth 8).signExtend 16]
  | .zxn => [a &&& 0x000F]
  | .sxn => [(a.setWidth 4).signExtend 16]
  | .swb => [a.rotateLeft 8]
  | .movImm i => [i]
  | .addImm i => [a + i]
  | .andImm i => [a &&& i]
  | .orImm i => [a ||| i]
  | .xorImm i => [a ^^^ i]
  | .seqImm i => [bw (a == i)]
  | .sltImm i => [bw (a.slt i)]
  | .sltuImm i => [bw (a.ult i)]
  | .adc => let r := adcOp a b (v.getD 2 0); [r.1, r.2]
  | .sbc => let r := sbcOp a b (v.getD 2 0); [r.1, r.2]

/-! ## Multiply and divide (R106, R107) -/

inductive MulDiv where
  | mul | mulu | div | divu | rem | remu
  deriving DecidableEq, Repr

/-- The results of a multiply (pair, low word first) or divide; the divisor is not zero (R60). -/
def MulDiv.eval (op : MulDiv) (a b : Word) : List Word :=
  match op with
  | .mul => let p := BitVec.ofInt 32 (a.toInt * b.toInt); [lo32 p, hi32 p]
  | .mulu => let p := BitVec.ofNat 32 (a.toNat * b.toNat); [lo32 p, hi32 p]
  | .div => [BitVec.ofInt 16 (a.toInt.tdiv b.toInt)]
  | .divu => [a / b]
  | .rem => [BitVec.ofInt 16 (a.toInt.tmod b.toInt)]
  | .remu => [a % b]

/-! ## Addressing (R111) -/

/-- The register fields that a form reads, the address, and the base update, for an access of `n` words. -/
def formRegs : MAddr → List Nat
  | .ind ra => [ra.val]
  | .postInc ra => [ra.val]
  | .preDec ra => [ra.val]
  | .off ra _ => [ra.val]

def formAddr (m : MAddr) (th : Thread) (n : Nat) : Word :=
  match m with
  | .ind ra => th.reg ra.val
  | .postInc ra => th.reg ra.val
  | .preDec ra => th.reg ra.val - wd n
  | .off ra imm => th.reg ra.val + imm

/-- The base field that the form updates. -/
def formUpd : MAddr → Option Nat
  | .postInc ra => some ra.val
  | .preDec ra => some ra.val
  | _ => none

/-- The base register after the access. -/
def formBase (m : MAddr) (th : Thread) (n : Nat) : Option (Nat × Word) :=
  match m with
  | .postInc ra => some (ra.val, th.reg ra.val + wd n)
  | .preDec ra => some (ra.val, th.reg ra.val - wd n)
  | _ => none

def formWords : MAddr → Nat
  | .off _ _ => 2
  | _ => 1

/-- The address of format X: Lb + Gi × 2^scale (R111). -/
def xAddr (th : Thread) (lb gi : Reg3) (scale : BitVec 2) : Word :=
  th.reg (8 + lb.val) + (th.reg gi.val <<< scale.toNat)

/-- Fields of the even-aligned pair that starts at a field (R72). -/
def pairOf (r : Nat) : List Nat := [r, r + 1]

/-- AUX 0x02 when the first register of a pair is odd (R72). -/
def oddPair (r : Nat) : Option (BitVec 8) := if r % 2 = 1 then some 0x02 else none

end Sys2Proof.Machine
end

