-- ==== Sys2Proof/Machine/Issue.lean ====
section
/-!
DEFINITION. The issue of an instruction, once for all families: when a thread may issue (R43, R61, R65, R419), the REP rules
(R114 to R121), fetch and breakpoint checks (R104, R479), decode faults (R103), privilege (R12), register and control parity
(R73, R74), stations and waits in place (R58, R62 to R64, R467), the lazy spill (R423, R430), and the step past an
instruction.
-/
namespace Sys2Proof.Machine

/-- A precise fault at the instruction; under REP FADDR.PC names the target (R120, R420). -/
def State.faultP (s : State) (t : Nat) (code aux : BitVec 8) (faddr : Word) : State :=
  let th := s.thr t
  s.precise t code aux ((th.rep.map (·.tgt)).getD th.pc) faddr

/-- ILLEGAL_OP: at a REP target it is taken at the prefix (R116); at a REP target or a prefix LCNT := 0 comes first (R103, R114). -/
def State.illegalP (s : State) (t : Nat) (aux : BitVec 8) (isRep : Bool) : State :=
  let th := s.thr t
  if th.rep.isSome || isRep then (s.modThr t (fun th => th.setCtl iLCNT 0)).precise t fILLEGAL aux th.pc 0
  else s.precise t fILLEGAL aux th.pc 0

/-- A step of DBG_STEP is done (R478). -/
def Thread.stepDone (th : Thread) : Thread :=
  if th.stepping then { th with stepping := false, haltReq := some .dbgStep } else th

/-- The thread goes on at an address after its instruction. -/
def Thread.onTo (th : Thread) (pc : Word) : Thread := ({ th with waiting := none, again := false }.setPc pc).stepDone

/-- The instruction is done: PC moves past it, or the repetition is counted (R99, R117). -/
def State.finish (s : State) (t words : Nat) : State :=
  s.modThr t (fun th =>
    match th.rep with
    | none => th.onTo (th.pc + wd words)
    | some r =>
      let c := th.ctlW iLCNT - 1
      let th := { th.setCtl iLCNT c with waiting := none, again := false }
      if c = 0 then ({ th with rep := none }.setPc (r.tgt + 1)).stepDone
      else if r.interruptible then th.stepDone else th)

/-- The instruction is done after `acc` data accesses, each in a slot of its own but under REP (R49, R50). -/
def State.finishA (s : State) (t words acc : Nat) : State :=
  (s.modThr t (fun th => th.accesses acc)).finish t words

/-- The instruction is done and control goes to an address. -/
def State.finishAt (s : State) (t : Nat) (pc : Word) : State := s.modThr t (fun th => th.onTo pc)

/-- What a waiting instruction keeps of an earlier try: that it found both stations full (R64), and its descriptor (R283). -/
def Thread.keepTry (th : Thread) : Thread := if th.again then th else { th with inPlace := false, desc := none }

/-- The instruction waits at issue (R58, R64). -/
def State.waitAt (s : State) (t : Nat) (i : Instr) : State :=
  s.modThr t (fun th => { th.keepTry with waiting := some i, again := false })

/-- The instruction parks its thread (R67); a stall count restarts at each park (R379). A step of DBG_STEP ends
here: the thread is to leave the wait and halt (R478). -/
def State.park (s : State) (t : Nat) (k : ParkKind) (i : Instr) : State :=
  let s := s.modThr t (fun th =>
    { (th.keepTry.parkOn k i) with
      waiting := none, again := false, stepping := false, haltReq := if th.stepping then some .stepParked else th.haltReq })
  match k with
  | .sendE e => s.modEnd e (fun x => { x with stall := 0 })
  | _ => s

/-- Whether REP.N is in progress (R119). -/
def Thread.inRepN (th : Thread) : Bool :=
  match th.rep with
  | some r => !r.interruptible
  | none => false

/-- Whether the thread may issue now: nothing is to be delivered, no result is owed to its next slot (R56), and neither a halt, an
item nor PSW.PRECISE holds it (R61, R65, R119, R419, R472). -/
def State.canIssue (s : State) (t : Nat) : Bool :=
  let th := s.thr t
  s.runs && decide (th.st = .running) && th.sync.isNone && th.service.isNone && !th.owes &&
    (th.again ||
      (th.waiting.isNone && !(th.precise && decide (th.ops ≠ [])) &&
        (th.inRepN || (th.haltReq.isNone && (s.choose t).isNone))))

/-- The breakpoint that a fetch at `pc` matches (R479). -/
def State.breakAt (s : State) (t : Nat) (pc : Word) : Option (Nat × Bool) :=
  ((List.range 4).filterMap (fun i =>
    match Tab.find s.brks i with
    | some b =>
      if bit b.ctl 2 && (bit b.ctl 4 || decide (fld b.ctl 10 5 = t)) && b.lo == pc then some (i, bit b.ctl 3) else none
    | none => none)).head?

/-- The checks of the fetch of `n` words at `pc` (R104): code, AUX and the failing address. -/
def State.fetchBad (s : State) (th : Thread) (pc : Word) (n : Nat) : Option (BitVec 8 × BitVec 8 × Word) :=
  (List.range n).findSome? (fun i =>
    let a := pc + wd i
    match s.cmp th.wt a.toNat .x with
    | some aux => some (fCOMPARTMENT, BitVec.ofNat 8 aux, a)
    | none => if parOk (s.mget a.toNat) then none else some (fPARITY_LM, 0x02, a))

/-- The instruction that a command of a thread spells in memory: a service row is GATE (R414). -/
def Instr.spelling : Instr → Instr
  | .clockStep t n => .gate t n
  | .arrayTest t n => .gate t n
  | .seedReset t n => .gate t n
  | .freq t n => .gate t n
  | .clearTally t n => .gate t n
  | .notifyHost t n => .gate t n
  | i => i

/-- The words at `pc` spell the instruction (R52, R99, R101). DESIGN CHOICE (log entry 57): R117 fetches the target of a REP in one slot, and
R116 does not say whether the word after it tells an undefined encoding (AUX 0x01) from a two-word instruction (AUX 0x03); here that word,
unfetched and unchecked, is read. -/
def State.spells (s : State) (t : Nat) (pc : Word) (i : Instr) : Bool :=
  decide (decodeInstr (Fin.ofNat 64 t) (s.mget pc.toNat).d (s.mget (pc + 1).toNat).d = Instr.spelling i)

/-- Registers with a pending write (file 02). -/
def Thread.pendingRegs (th : Thread) : List Nat := th.ops.flatMap (·.dests) ++ th.held.flatMap (·.dests)

/-- The youngest pending producer of a register. -/
def Thread.producer (th : Thread) (r : Nat) : Option Nat :=
  ((th.ops.filter (fun o => o.dests.contains r)).map (·.id) ++ (th.held.filter (fun h => h.dests.contains r)).map (·.id)).foldl
    (fun b i => match b with
      | none => some i
      | some j => some (max i j)) none

/-- Places a register-to-register instruction in a station (R62). -/
def State.toStation (s : State) (t : Nat) (op : Alu) (p : Pre) : State :=
  let (id, s) := s.fresh
  let s := s.modThr t (fun th =>
    let src (r : Nat) : HSrc :=
      let n := th.regNo r
      match th.producer n with
      | some q => .dep q n
      | none => .val (th.regP n).d
    let dests := p.writes.map th.regNo
    { th with held := th.held ++ [⟨id, op, p.reads.map src, dests, dests.filterMap th.producer⟩] })
  s.finish t p.words

/-- The outcome of the issue: the instruction goes on in a state, or its step ends there. -/
inductive Gate where
  | go (s : State)
  | stop (s : State)

/-- Whether the thread's next L write spills the frame's window (R430). -/
def Thread.mustSpill (th : Thread) (p : Pre) : Bool := !th.lfill && (p.spills || p.writes.any (fun r => decide (8 ≤ r)))

/-- The word that a spill of the current window reads with failing parity: SSP, then WP, then L0 to L7 (R73, R74). -/
def Thread.spillBad (th : Thread) : Option Nat :=
  match th.badUse [iSSP, iWP] with
  | some c => some (0x40 + c)
  | none => (List.range 8).findSome? (fun n => if parOk (th.regP (th.regNo (8 + n))) then none else some (8 + n))

/-- Spills when the instruction is the handler's first L write, then goes on unless a word read fails its parity check or the
thread was felled (R430). -/
def State.spilling (s : State) (t : Nat) (p : Pre) (k : State → State) : State :=
  if (s.thr t).mustSpill p then
    match (s.thr t).spillBad with
    | some c => s.faultP t fPARITY_REG (BitVec.ofNat 8 c) 0
    | none =>
      let s := s.spillL t
      if (s.thr t).st = .felled then s else k s
  else k s

/-- The control words that an instruction uses at OP: WP where it names a local register (R71, R74). -/
def Pre.ctlUses (p : Pre) : List Nat := p.uses ++ (if (p.reads ++ p.writes).any (fun r => decide (8 ≤ r)) then [iWP] else [])

/-- 4 long operations with a register result are pending (R58). -/
def Thread.fullResults (th : Thread) : Bool := decide ((th.ops.filter (fun o => o.dests ≠ [])).length ≥ 4)

/-- No long operation with these destinations may issue now: a commit holds the thread's far accesses and long operations (R467),
or 4 operations with a register result are pending (R58). -/
def Thread.noRoom (th : Thread) (dests : List Nat) : Bool :=
  th.commitHold || (decide (dests ≠ []) && th.fullResults)

/-- The register checks and waits of issue: control parity, pending registers, register parity, capacity, spill wait. An instruction
that has waited for a station executes only when none of its registers is pending (R64). -/
def State.issueRegs (s : State) (t : Nat) (i : Instr) (p : Pre) : Gate :=
  let th := s.thr t
  match th.badUse p.ctlUses with
  | some c => .stop (s.faultP t fPARITY_REG (BitVec.ofNat 8 (0x40 + c)) 0)
  | none =>
    let pend := if s.small then th.pendingRegs else []
    let isPend (r : Nat) : Bool := pend.contains (th.regNo r)
    let bad := (p.reads.filter (fun r => !isPend r)).find? (fun r => !parOk (th.regP (th.regNo r)))
    let lw := (List.range 8).map (fun n => 8 + 8 * th.wp + n)
    if th.mustSpill p && !p.spills && th.pendingRegs.any lw.contains then .stop (s.waitAt t i)
    else if p.reads.any isPend || p.writes.any isPend || p.regNos.any pend.contains then
      match p.alu with
      | some op =>
        if th.rep.isSome || (th.again && th.inPlace) then .stop (s.waitAt t i)
        else if th.held.length ≥ 2 then .stop ((s.waitAt t i).modThr t (fun th => { th with inPlace := true }))
        else
          match bad with
          | some r => .stop (s.faultP t fPARITY_REG (BitVec.ofNat 8 r) 0)
          | none => .stop (s.spilling t p (fun s => s.toStation t op p))
      | none => .stop (s.waitAt t i)
    else
      match bad with
      | some r => .stop (s.faultP t fPARITY_REG (BitVec.ofNat 8 r) 0)
      | none =>
        if p.long && th.noRoom p.writes then .stop (s.waitAt t i)
        else .go s

/-- The thread is HALTED, which ends a step and what asked it to halt; a command that waits for its halt is answered (R472, R473,
R478). -/
def Thread.stopped (th : Thread) : Thread :=
  { th with st := .halted, haltReq := none, stepping := false, rep := none, waiting := none, again := false }

/-- A fetch at `pc` in a slot of its own: the words it uses, breakpoints, then the checks of R104. DESIGN CHOICE: a breakpoint armed
to HALT (and a watchpoint, `Machine.State.access`) that matches while an instruction is held in a station halts the thread at
once, and the held instruction dispatches after THREAD_RESUME: R65, R479 and R480 do not say which comes first. Log entry 50. -/
def State.issueFetch (s : State) (t : Nat) (pc : Word) : Gate :=
  let th := s.thr t
  let s' := s.modThr t (fun th => { th with skipBreak := false }.slots 1)
  match th.badUse [0x00, iTTAG] with
  | some c => .stop (s'.precise t fPARITY_REG (BitVec.ofNat 8 (0x40 + c)) pc 0)
  | none =>
    match (if th.skipBreak then none else s.breakAt t pc) with
    | some (i, true) => .stop (s'.precise t fDEBUG_BREAK (BitVec.ofNat 8 i) pc 0)
    | some (i, false) =>
      .stop ((s'.modThr t (fun th =>
        th.stopped.setPc pc)).faultNotice t
        fDEBUG_BREAK (BitVec.ofNat 8 i) pc 0 [])
    | none =>
      match s.fetchBad th pc 1 with
      | some (code, aux, a) => .stop (s'.precise t code aux pc a)
      | none => .go s'

/-- The fetch of the second word of an instruction at `pc`, in the slot after the first (R104). -/
def State.issueSecond (s : State) (t : Nat) (pc : Word) (words : Nat) : Gate :=
  if words ≠ 2 then .go s
  else
    let s' := s.modThr t (fun th => th.slots 1)
    match s.fetchBad (s.thr t) (pc + 1) 1 with
    | some (code, aux, a) => .stop (s'.precise t code aux pc a)
    | none => .go s'

/-- Decode faults and privilege at the DE of the first word (R12, R103), then the second word with its checks and the decode faults that
it gives (R103, R104), then the registers. -/
def State.issueDecode (s : State) (t : Nat) (i : Instr) (p : Pre) : Gate :=
  match (if p.late then none else p.illegal) with
  | some aux => .stop (s.illegalP t aux p.isRep)
  | none =>
    match (s.thr t).badUse (if p.sup then [iPSW] else []) with
    | some c => .stop (s.faultP t fPARITY_REG (BitVec.ofNat 8 (0x40 + c)) 0)
    | none =>
      if p.sup ∧ ¬ (s.thr t).sup then .stop (s.faultP t fPRIV 0 0)
      else
        match s.issueSecond t (s.thr t).pc p.words with
        | .stop s => .stop s
        | .go s =>
          match p.illegal with
          | some aux => .stop (s.illegalP t aux p.isRep)
          | none => s.issueRegs t i p

/-- The AUX that a REP target takes, if it faults (R116). -/
def Pre.targetAux (p : Pre) : Option (BitVec 8) :=
  if p.illegal = some 0x01 then some 0x01
  else if p.target then p.illegal
  else some 0x03

/-- The issue of instruction `i` of thread `t`, which the fetched words spell: an instruction that waited executes in a slot that
fetches nothing (R64), and each repetition has its slot (R50) and uses LCNT (R74, R117). -/
def State.issue (s : State) (t : Nat) (i : Instr) (p : Pre) : Gate :=
  if ¬ s.canIssue t then .stop s
  else
    let th := s.thr t
    let next (s : State) : State := s.modThr t (fun th => th.slots 1)
    match th.rep with
    | none =>
      if th.again then (next s).issueRegs t i p
      else
        match s.issueFetch t th.pc with
        | .stop s => .stop s
        | .go s' => if s.spells t th.pc i then s'.issueDecode t i p else .stop s
    | some r =>
      let p : Pre := { p with uses := iLCNT :: p.uses }
      match r.held with
      | some j => if i = j then (next s).issueRegs t i p else .stop s
      | none =>
        match s.issueFetch t r.tgt with
        | .stop s => .stop s
        | .go s' =>
          if ¬ s.spells t r.tgt i then .stop s
          else
            match p.targetAux with
            | some aux => .stop (s'.illegalP t aux false)
            | none => (next (s'.modThr t (fun th => { th with rep := some { r with held := some i } }))).issueRegs t i p

/-- The meaning of an instruction: its issue, then its effect. -/
def issued (s : State) (t : Nat) (i : Instr) (p : Pre) (k : State → State) : Out :=
  .next (match s.issue t i p with
    | .stop s => s
    | .go s => k s)

/-- Issues a long operation: it is pending with its destinations fixed, and the thread goes on (R54, R75). `dist` is its settle
distance, 0 where the latency is variable: the result is readable that many slots after the slot of issue (R56). -/
def State.handOffIn (s : State) (t dist cls : Nat) (dests : List Nat) (res : List Word) (store : Bool) (words : Nat) : Nat × State :=
  let (id, s) := s.fresh
  let th := s.thr t
  let op : LongOp := ⟨id, cls, th.pc, dests.map th.regNo, res, store, if dist = 0 then 0 else th.slotNo - 1 + dist, th.precise⟩
  (id, (s.modThr t (fun th => { th with ops := th.ops ++ [op] })).finish t words)

/-- Issues a long operation of variable latency. -/
def State.handOff (s : State) (t cls : Nat) (dests : List Nat) (res : List Word) (store : Bool) (words : Nat) : Nat × State :=
  s.handOffIn t 0 cls dests res store words

/-! ## Register-to-register instructions (R62, R105 to R110) -/

/-- The issue requirements of a register-to-register instruction. -/
def aluPre (op : Alu) (srcs dests : List Nat) (words : Nat) (target : Bool) : Pre :=
  { words := words, reads := srcs, writes := dests, alu := some op, target := target }

/-- Reads the sources, computes, writes the destinations in order. -/
def State.aluRun (s : State) (t : Nat) (op : Alu) (p : Pre) : State :=
  s.spilling t p (fun s =>
    (s.modThr t (fun th => th.writes ((p.writes.map th.regNo).zip (op.eval (p.reads.map th.reg))))).finish t p.words)

def execAlu (i : Instr) (t : Tid) (op : Alu) (srcs dests : List Reg) (words : Nat) (target : Bool) (s : State) : Out :=
  let p := aluPre op (srcs.map (·.val)) (dests.map (·.val)) words target
  issued s t i p (fun s => s.aluRun t op p)

end Sys2Proof.Machine
end

