-- ==== Sys2Proof/Machine/Services.lean ====
section
/-!
DEFINITION. Atpolet replies (R445, R446), the READY register (R451, R504), switches of ACLK (R495 to R498), the felling of an
array (R332), and the ring-1 services (R413 to R416).
-/
namespace Sys2Proof.Machine

/-! ## Replies (R445, R446) -/

/-- Status codes (R449). -/
def aDONE : Nat := 0
def aREFUSED : Nat := 1
def aBAD_PARAM : Nat := 2
def aNO_FIT : Nat := 3
def aBUSY : Nat := 4
def aTXN_OPEN : Nat := 5
def aNO_TXN : Nat := 6
def aUNKNOWN : Nat := 7
def aFAULTED : Nat := 8
def aDENIED : Nat := 9

def AtpCmd.word (c : AtpCmd) (i : Nat) : Word := c.payload.getD i 0
def AtpCmd.opcode (c : AtpCmd) : Nat := fld (c.word 0) 7 0
/-- Parameter word `i` (R445). -/
def AtpCmd.p (c : AtpCmd) (i : Nat) : Word := c.word (4 + i)
def AtpCmd.count (c : AtpCmd) : Nat := fld (c.word 3) 5 0

/-- The reply to a command leaves (R445, R446). -/
def State.reply (s : State) (c : AtpCmd) (status : Nat) (results : List Word) : State :=
  s.emit clsATP c.src ([wd (c.opcode + 256), c.word 1, c.word 2, wd (results.length + 256 * status)] ++ results)

/-- The reply to the command in execution leaves (R448). -/
def State.atpEnd (s : State) (status : Nat) (results : List Word) : State :=
  match s.atpCur with
  | some (c, _) => ({ s with atpCur := none }).reply c status results
  | none => s

/-! ## READY (R451, R504) -/

/-- A queued notice with more bits that have become 1 in its cycle (R484, R504). -/
def Notice.join (n : Notice) (ready new : Word) : Notice := { n with words := [ready, n.words.getD 1 0 ||| new] }

/-- The READY notice of this cycle, where it still waits: the one with the TAG that `readyMark` names. -/
def State.readyWaits (s : State) (n : Notice) : Bool :=
  decide (n.code = nREADY) && decide (s.readyMark = some (s.cycle, n.tag))

/-- A READY notice about bits that have become 1: those of one cycle share one (R484, R504, R506; DEDUCED, log entry
33). -/
def State.readyNotice (s : State) (new : Word) : State :=
  if s.notices.any s.readyWaits then { s with notices := s.notices.map (fun n => if s.readyWaits n then n.join s.ready new else n) }
  else { (s.notify nREADY [s.ready, new]) with readyMark := some (s.cycle, s.noticeSeq) }

/-- Bits of the READY register become 1; once Atpolet is ready a READY notice carries those not yet reported. READY.FALL is
not one of the functions that become ready. -/
def State.setReady (s : State) (bits : Word) : State :=
  let s := { s with ready := s.ready ||| bits }
  let new := s.ready &&& ~~~(s.readySent ||| 0x0400)
  if bit s.ready 0 ∧ new ≠ 0 then ({ s with readySent := s.readySent ||| new }).readyNotice new else s

/-- READY.FALL (R451). -/
def State.setFall (s : State) (b : Bool) : State := { s with ready := setFld s.ready 10 10 (b2n b) }

/-! ## Switches of ACLK (R495 to R498) -/

/-- Completes the service that holds a thread: results to G0 and G1, and the thread goes on after the GATE (R414). -/
def State.svcEnd (s : State) (t : Nat) (g0 : Word) (g1 : Option Word) : State :=
  let th := s.thr t
  match th.service with
  | none => s
  | some _ =>
    s.modThr t (fun th =>
      let th := th.writes ((0, g0) :: g1.toList.map (fun w => (1, w)))
      ({ th with service := none, waiting := none, again := false }.setPc (th.pc + 1)).stepDone)

/-- A timing-void item for every thread that may hold one; a pending one shows the latest kind (R437). -/
def State.timingVoid (s : State) (kind : Nat) : State :=
  { s with threads := s.threads.mapVal (fun th =>
      if th.takesItems then { th with tvoid := some (item fWINDTHROW (BitVec.ofNat 8 (0x80 + kind)) 0 0) } else th) }

/-- The divisor in force, answered to a request that is performed (R454, R496). -/
def State.switchReply (s : State) (w : Switch) (old : Nat) : State :=
  let s := match w.svc with
    | some t => s.svcEnd t (wd old) none
    | none => s
  if w.reply then s.atpEnd aDONE [wd old] else s

/-- A request that needs no switch completes at once (R495). -/
def State.idleSwitch (s : State) (w : Switch) : Bool := decide (w.kind = 1) && decide (w.div = s.clk.div)

/-- Begins the first waiting request that needs a switch; requests for the divisor in force complete on the way (R496). -/
def State.nextSwitch (s : State) : List Switch → State
  | [] => { s with clk := { s.clk with queue := [] } }
  | w :: q =>
    if s.idleSwitch w then (s.switchReply w s.clk.div).nextSwitch q
    else { s with clk := { s.clk with switch := some w, queue := q } }

/-- A request for a switch (R496). -/
def State.requestSwitch (s : State) (w : Switch) : State :=
  match s.clk.switch with
  | some _ => { s with clk := { s.clk with queue := s.clk.queue ++ [w] } }
  | none => s.nextSwitch [w]

/-- What a switch tells the threads, Fraina and, after a failure, the warden (R437, R492, R494 to R497): nothing in a bring-up that finds
no threads. -/
def State.switchReport (s : State) (w : Switch) (oldRoot root div : Nat) : State :=
  if w.bringup && !(s.threads.any (fun e => e.2.takesItems)) then s
  else
    let s := (s.notify nCLOCK [wd w.kind, wd oldRoot, wd root, wd div]).timingVoid w.kind
    if w.kind = 0 then s.wardenReport (item fWINDTHROW (BitVec.ofNat 8 (oldRoot + 1)) 0 0) false else s

/-- The switch ends: the new clock is in force and is reported (R492, R494 to R497, R505); the switch of a bring-up that finds
threads has their items and its notice as well (R437). -/
def State.endSwitch (s : State) (w : Switch) : State :=
  let root := if w.kind = 1 then s.clk.root else w.root
  let div := if w.kind = 1 then w.div else s.clk.div
  let old := s.clk
  let cdr := decide (root < 2)
  let s := { s with clk := { s.clk with
    root := root, div := div, switch := none
    monitorOn := if w.kind = 1 then old.monitorOn else cdr
    fallback := if w.kind = 2 ∧ cdr then false else old.fallback
    selUnder := if w.kind = 2 then !cdr else old.selUnder
    bringup := if w.kind = 2 ∧ cdr then .none else old.bringup } }
  let s := if w.kind = 2 ∧ cdr then s.setFall false else s
  let s := s.switchReport w old.root root div
  let s := if w.kind = 2 ∧ cdr then s.setReady 0x0002 else s
  let s := s.switchReply w (if w.kind = 1 then old.div else old.root)
  s.nextSwitch s.clk.queue

/-! ## Felling an array (R332, R333) -/

/-- Item of a pass that is discarded with KIND `kind` (R327, R332): FADDR.ADDR is the pass index, or the PC of the FIRST pass
for a pass of a chain, whose frame follows R327. -/
def passItem (a : Nat) (p : Pass) (kind corner : Nat) (held : Bool) : Item :=
  let aux := kind + 8 * corner + 16 * a + 32 * p.slot + 128 * b2n p.inChain
  if p.inChain then
    ⟨fARRAY_CHECK, BitVec.ofNat 8 aux, p.pc, p.firstPc, some (p.pc + 1), held, some (0, 0)⟩
  else ⟨fARRAY_CHECK, BitVec.ofNat 8 aux, p.pc, wd p.p, none, held, some (wd p.p, 0)⟩

/-- Records a fault of a stream; the lowest failing pass counts (R305). -/
def Stream.fail (m : Stream) (p : Nat) (it : Item) : Stream :=
  match m.fault with
  | some (q, _) => if p < q then { m with fault := some (p, it) } else m
  | none => { m with fault := some (p, it) }

/-- Records a fault in the stream that carried a pass. -/
def Arr.failStream (x : Arr) (sid p : Nat) (it : Item) : Arr :=
  { x with streams := x.streams.map (fun m => if m.id = sid then m.fail p it else m) }

/-- Whether the verdict of a pass has passed (its writes are still to come or done). -/
def Pass.passed (p : Pass) : Bool := decide (p.phase = .writing) || decide (p.phase = .done)

/-- Discards the passes that `keep` does not name, with KIND 7 (R332). -/
def Arr.discardBut (x : Arr) (a : Nat) (keep : Pass → Bool) : Arr :=
  let lost := x.passes.filter (fun p => !keep p)
  { lost.foldl (fun x p => x.failStream p.sid p.p (passItem a p 7 0 false)) x with passes := x.passes.filter keep }

/-- The array is felled by a verdict of slot `slot`, or by a self-test (4): a pass of another slot that waits for its verdict may
still have it in this cycle (R331 to R333). -/
def State.fellArray (s : State) (a slot : Nat) : State :=
  let x := (s.arr a).discardBut a (fun p => p.passed || (decide (p.phase = .verdict) && decide (p.slot ≠ slot)))
  let s := s.setArr a { x with
    felled := true
    recs := [], tabs := x.tabs.mapVal (fun t => { t with owner := none }), chains := [], chainBufs := []
    jobs := x.jobs.map (fun j => { j with find := none, done := true, voided := true }) }
  let s := { s with ready := setFld s.ready (8 + a) (8 + a) 0 }
  let s := s.wardenReport (item fARRAY_FELLED (BitVec.ofNat 8 a) 0 0) false
  s.notify nFELL [1, wd a, wd (b2n ((s.arr 0).felled && (s.arr 1).felled))]

/-- A felled array after the cycle of its felling: a pass whose verdict did not fall in that cycle is discarded (R332). -/
def Arr.sweep (x : Arr) (a : Nat) : Arr := if x.felled then x.discardBut a Pass.passed else x

/-! ## Ring-1 services (R413 to R416) -/

def hgSvc (w0 : Word) : Nat := fld w0 2 0
/-- The world's supervisors may call the entry (R413). -/
def hgAllows (w0 : Word) (world : Bool) : Bool := bit w0 (if world then 4 else 3)

/-- A frequency-counter request: counted source, reference and exponent in range (R415, R499). -/
def freqOk (g : Word) : Bool :=
  let x := fld g 2 0
  let y := fld g 5 3
  let n := fld g 10 6
  decide (x ≤ 4) && decide (y ≤ 4) && decide (x ≠ y) && decide (8 ≤ n) && decide (n ≤ 20) && decide (fld g 15 11 = 0)

/-- G0 is valid for the service (R415). -/
def svcArgOk (svc : Nat) (g0 : Word) : Bool :=
  match svc with
  | 1 => decide (2 ≤ g0.toNat) && decide (g0.toNat ≤ 4)
  | 2 => decide (g0.toNat ≤ 1)
  | 3 => g0 == 0
  | 4 => freqOk g0
  | 5 => decide (g0.toNat ≤ 7)
  | 6 => true
  | _ => false

/-- A service is in progress (R414). -/
def State.svcBusy (s : State) : Bool :=
  s.threads.any (fun e => match e.2.service with
    | some v => decide (v.code ≠ 0)
    | none => false)

/-- Whether the array is idle for a self-test (R415). -/
def State.testable (s : State) (a : Nat) : Bool :=
  let x := s.arr a
  bit s.ready (6 + a) && !x.felled && decide (x.jobs = []) && x.passes.all (fun p => decide (p.phase = .done)) &&
    decide (x.chains = []) && decide (x.chainBufs = []) && x.testing.isNone

/-- Clears the counters at indexes `lo` to `hi`. -/
def State.clearCounts (s : State) (lo hi : Nat) : State :=
  { s with tally := s.tally.filter (fun e => decide (e.1 < lo) || decide (e.1 > hi)) }

/-- A second caller, or a FREQ call while FREQ_MEASURE counts, is held until it can begin (R414, R455). -/
def State.svcHold (s : State) (t : Nat) (i : Instr) : State :=
  (s.waitAt t i).modThr t (fun th => { th with service := some ⟨0, 0⟩ })

/-- Performs, or begins, a service for a thread (R415, R416). -/
def State.serve (s : State) (t svc : Nat) (g0 : Word) (i : Instr) : State :=
  if s.svcBusy ∨ (svc = 4 ∧ s.clk.freq.isSome) then s.svcHold t i
  else
    let s := s.modThr t (fun th => { th with service := some ⟨svc, g0⟩, waiting := none, again := false })
    let th := s.thr t
    match svc with
    | 1 => s.requestSwitch ⟨1, 0, g0.toNat, some t, false, false⟩
    | 2 =>
      let a := g0.toNat
      if s.testable a then
        (s.modArr a (fun x =>
          { x with testing := some t, recs := [], tabs := x.tabs.mapVal (fun t => { t with owner := none }) })).count cShareYield 1
      else s.svcEnd t 2 none
    | 3 => (s.modThr t (fun th => (th.setCtl iMSEED (declW s.cfg t 6)).setCtl (iMSEED + 1) (declW s.cfg t 7))).svcEnd t 0 none
    | 4 => { s with clk := { s.clk with freq := some ⟨some t, g0, false, 0, 0, 0⟩ } }
    | 5 =>
      let s := if bit g0 0 then s.clearCounts 0x00 0x13 else s
      let s := if bit g0 1 then s.clearCounts 0x18 0x1D else s
      let s := if bit g0 2 then s.clearCounts 0x20 0x24 else s
      s.svcEnd t 0 none
    | _ =>
      match th.notifyAge with
      | some _ => (s.count cNotifyDrop 1).svcEnd t 0 none
      | none =>
        ((s.modThr t (fun th => { th with notifyAge := some 0 })).notify nHOST
          [g0, (th.regP 2).d, (th.regP 3).d, wd t, th.wt.setWidth 16]).svcEnd t 1 none

/-- GATE n at ring 2, n = 64 to 127 (R414): the service, or a GATE fault. -/
def State.hardGate (s : State) (t n : Nat) (i : Instr) : State :=
  let th := s.thr t
  let g0 := (th.regP 0).d
  let w0 := hgateW s.cfg n 0
  if hgAllows w0 th.world && (hgateW s.cfg n 1).ule g0 && g0.ule (hgateW s.cfg n 2) && svcArgOk (hgSvc w0) g0 then
    s.serve t (hgSvc w0) g0 i
  else s.faultP t fGATE (BitVec.ofNat 8 n) 0

/-- The general registers that a GATE to hardware entry `n` reads: the argument, and the words that NOTIFY_HOST carries (R414, R416). -/
def State.gateReads (s : State) (n : Nat) : List Nat := if hgSvc (hgateW s.cfg n 0) = 6 then [0, 2, 3] else [0]

/-- A row of a service: GATE n at ring 2 where entry n names that service; where it names another, or the thread is at ring 3
or n is not 64 to 127, the step does nothing (the GATE row takes the step). -/
def execService (i : Instr) (t : Tid) (n : BitVec 7) (svc : Nat) (s : State) : Out :=
  if ¬ ((s.thr t).sup ∧ 64 ≤ n.toNat ∧ hgSvc (hgateW s.cfg n.toNat 0) = svc) then .next s
  else issued s t i { reads := s.gateReads n.toNat, regNos := [0, 1], uses := [iPSW] } (fun s => s.hardGate t n.toNat i)

/-- CLOCK_STEP (R415). -/
def execClockStep (t : Tid) (n : BitVec 7) (s : State) : Out := execService (.clockStep t n) t n 1 s
/-- ARRAY_TEST (R415). -/
def execArrayTest (t : Tid) (n : BitVec 7) (s : State) : Out := execService (.arrayTest t n) t n 2 s
/-- SEED_RESET (R415). -/
def execSeedReset (t : Tid) (n : BitVec 7) (s : State) : Out := execService (.seedReset t n) t n 3 s
/-- FREQ (R415, R499). -/
def execFreq (t : Tid) (n : BitVec 7) (s : State) : Out := execService (.freq t n) t n 4 s
/-- CLEAR_TALLY (R415). -/
def execClearTally (t : Tid) (n : BitVec 7) (s : State) : Out := execService (.clearTally t n) t n 5 s
/-- NOTIFY_HOST (R415, R416). -/
def execNotifyHost (t : Tid) (n : BitVec 7) (s : State) : Out := execService (.notifyHost t n) t n 6 s

end Sys2Proof.Machine
end

