-- ==== Sys2Proof/Machine/System.lean ====
section
/-!
DEFINITION. Waiting, synchronizing, entering and leaving the supervisor, deadlines and control registers (R125 to R133, R91 to
R94, R103).
-/
namespace Sys2Proof.Machine

/-- NOP. -/
def execNop (t : Tid) (s : State) : Out := issued s t (.nop t) {} (fun s => s.finish t 1)

/-- UNDEFINED_ENCODING (R103), by its first word or, where that begins a two-word instruction, by its second (R104). -/
def execUndefinedEncoding (t : Tid) (s : State) : Out :=
  let w := (s.mget (s.thr t).pc.toNat).d
  let late := bySecond t w
  issued s t (.undefinedEncoding t) { words := if late then 2 else 1, illegal := some 0x01, late := late, isRep := repWord w } (fun s => s)

/-- Entries of the merging buffer that hold a thread's stores become due (R167). -/
def State.dueMerges (s : State) (t : Nat) : State :=
  { s with merge := s.merge.map (fun m => if m.threads.contains t then { m with due := true } else m) }

/-- SETTLE (R125): done when nothing of the class is outstanding, else parked until all of it has retired. -/
def State.settle (s : State) (t c : Nat) (i : Instr) (k : State → State) : State :=
  let s := if c = 0 ∨ c = 2 then s.dueMerges t else s
  let ids := ((s.thr t).ops.filter (fun o => decide (c = 0) || decide (o.cls = c))).map (·.id)
  if ids = [] then k s else s.park t (.settle ids) i

/-- SETTLE. -/
def execSettle (t : Tid) (c : BitVec 4) (s : State) : Out :=
  issued s t (.settle t c) { illegal := if c.toNat > 6 then some 0x05 else none } (fun s =>
    s.settle t c.toNat (.settle t c) (fun s => s.finish t 1))

/-- SYNC (R126). -/
def execSync (t : Tid) (s : State) : Out :=
  issued s t (.sync t) {} (fun s => (s.modThr t Thread.syncRws).finish t 1)

/-- WAIT (R127). -/
def execWait (t : Tid) (v : Vec) (s : State) : Out :=
  issued s t (.wait t v) { uses := [iEVPEND] } (fun s =>
    if bit ((s.thr t).ctlW iEVPEND) v.val then s.finish t 1 else s.park t (.wait v.val) (.wait t v))

/-- GATE (R128, R411, R412, R414). -/
def execGate (t : Tid) (n : BitVec 7) (s : State) : Out :=
  let hard := (s.thr t).sup && decide (64 ≤ n.toNat)
  let i : Instr := .gate t n
  issued s t i { reads := if hard then s.gateReads n.toNat else [], regNos := if hard then [0, 1] else [], uses := [iPSW] } (fun s =>
    let th := s.thr t
    if hard then s.hardGate t n.toNat i
    else
      let w1 := gateW s.cfg th.world n.toNat 1
      if ¬ th.sup ∧ n.toNat < 64 ∧ bit w1 0 then
        if th.held ≠ [] then s.waitAt t i
        else s.enter t { kind := .gate (gateW s.cfg th.world n.toNat 0) (fld w1 3 1), code := 0, aux := BitVec.ofNat 8 n.toNat,
                         fpc := 0, faddr := 0, pc := th.pc + 1, level := 0, vector := 0, held := false, more := 0, mrow := none }
      else s.faultP t fGATE (BitVec.ofNat 8 n.toNat) 0)

/-- The local registers of the current window. -/
def localFields : List Nat := [8, 9, 10, 11, 12, 13, 14, 15]

/-- ERET (R129, R431). -/
def execEret (t : Tid) (s : State) : Out :=
  issued s t (.eret t) { sup := true, uses := [iSSP], writes := if (s.thr t).lfill then localFields else [] } (fun s =>
    (s.eret t).modThr t (fun th => if th.st = .running then { th with waiting := none, again := false }.stepDone else th))

/-! ## Deadlines (R130 to R132) -/

def Thread.pairVal (th : Thread) (r : Nat) : Word32 := mk32 (th.reg r) (th.reg (r + 1))

def execDlarm (i : Instr) (t : Tid) (rp : Reg) (sup : Bool) (f : Thread → Word32 → Thread) (s : State) : Out :=
  issued s t i { reads := pairOf rp.val, illegal := oddPair rp.val, sup := sup } (fun s =>
    (s.modThr t (fun th => f th (th.pairVal rp.val))).finish t 1)

/-- DLARM.A. -/
def execDlarmA (t : Tid) (rp : Reg) (s : State) : Out := execDlarm (.dlarmA t rp) t rp false Thread.setDla s
/-- DLARM.B: ends bound mode (R131). -/
def execDlarmB (t : Tid) (rp : Reg) (s : State) : Out :=
  execDlarm (.dlarmB t rp) t rp true (fun th v => { th.setDlb v with dlbBound := none }) s
/-- DLARM.BW: bound mode, DLB disarmed (R131). -/
def execDlarmBw (t : Tid) (rp : Reg) (s : State) : Out :=
  execDlarm (.dlarmBw t rp) t rp true (fun th v => { th.setDlb 0 with dlbBound := some v }) s
/-- DLDIS.A. -/
def execDldisA (t : Tid) (s : State) : Out :=
  issued s t (.dldisA t) {} (fun s => (s.modThr t (fun th => th.setDla 0)).finish t 1)
/-- DLDIS.B: ends bound mode. -/
def execDldisB (t : Tid) (s : State) : Out :=
  issued s t (.dldisB t) { sup := true } (fun s => (s.modThr t (fun th => { th.setDlb 0 with dlbBound := none })).finish t 1)

/-! ## MFC and MTC (R91 to R94, R133) -/

/-- Whether R92 lists an index. -/
def ctlListed (i : Nat) : Bool := decide (i ≤ 0x2C)

/-- The stored word that MFC reads; word 1 of a deadline is the captured one (R74, R133). -/
def Thread.mfc (th : Thread) (t i : Nat) : ParWord :=
  if i = 0x00 then th.pcw
  else if i = 0x20 then th.dlaw.1
  else if i = 0x21 then th.dlaCap
  else if i = 0x22 then th.dlbw.1
  else if i = 0x23 then th.dlbCap
  else if i = iTID then th.tidP t
  else th.ctlP i

/-- MFC of word 0 of a deadline captures word 1 (R133). -/
def Thread.capture (th : Thread) (i : Nat) : Thread :=
  if i = 0x20 then { th with dlaCap := th.dlaw.2 } else if i = 0x22 then { th with dlbCap := th.dlbw.2 } else th

/-- MFC. -/
def execMfc (t : Tid) (rd : Reg) (idx : BitVec 6) (s : State) : Out :=
  let p : Pre := { writes := [rd.val], illegal := if ctlListed idx.toNat then none else some 0x06 }
  issued s t (.mfc t rd idx) p (fun s =>
    let th := s.thr t
    let i := idx.toNat
    let w := th.mfc t i
    if ¬ parOk w then s.faultP t fPARITY_REG (BitVec.ofNat 8 (0x40 + i)) 0
    else
      s.spilling t p (fun s => (s.modThr t (fun th => (th.capture i).writes [(th.regNo rd.val, w.d)])).finish t 1))

/-- Words that a write leaves unchanged (R9, R92). -/
def ctlReadOnly (i : Nat) : Bool :=
  decide (i = 0x00) || (decide (0x20 ≤ i) && decide (i ≤ 0x27)) || decide (i = 0x2B) || decide (i = 0x2C)

/-- Words that ring 3 may write (R92). -/
def ctlUser (i : Nat) : Bool := decide (i = 0x05) || decide (i = 0x0B) || decide (i = 0x28) || decide (i = 0x29)

/-- PSW after a write: WORLD is kept (R93). -/
def pswWrite (old new : Word) : Word := wd ((new.toNat &&& 0x003F) ||| (old.toNat &&& 0x1000))

/-- A control word after a write of `w` by MTC (R9 to R11, R93, R94). -/
def Thread.ctlNew (th : Thread) (i : Nat) (w : Word) : Word :=
  if i = iPSW then pswWrite th.psw w
  else if i = iEVPEND then th.ctlW iEVPEND &&& ~~~w
  else if i = iMCHK then clampMchk (wd (w.toNat &&& ctlMask i))
  else wd (w.toNat &&& ctlMask i)

/-- Words that only ring 2 may write, whatever the value (R12, R91, R92): tested at decode. -/
def ctlSup (i : Nat) : Bool := ctlListed i && !ctlReadOnly i && !ctlUser i && decide (i ≠ iPSW)

/-- Whether a write of PSW at ring 3 changes a field other than PRECISE (R410). -/
def Thread.pswPriv (th : Thread) (w : Word) : Bool := !th.sup && ((pswWrite th.psw w ^^^ th.psw) &&& ~~~0x0020) != 0

/-- MTC: it keeps fields of PSW, and clears bits of EVPEND, which it so uses (R74, R93). -/
def execMtc (t : Tid) (idx : BitVec 6) (rs : Reg) (s : State) : Out :=
  let i := idx.toNat
  let p : Pre :=
    { reads := [rs.val], uses := if i = iPSW ∨ i = iEVPEND then [i] else [], illegal := if ctlListed i then none else some 0x06,
      sup := ctlSup i }
  issued s t (.mtc t idx rs) p (fun s =>
    let th := s.thr t
    let w := th.reg rs.val
    if i = iPSW ∧ th.pswPriv w then s.faultP t fPRIV 0 0
    else if ctlReadOnly i then s.finish t 1
    else (s.modThr t (fun th => th.setCtl i (th.ctlNew i w))).finish t 1)

end Sys2Proof.Machine
end

