-- ==== Sys2Proof/Machine/Tiles.lean ====
section
/-!
DEFINITION. Tile registers: the resolution of logical tiles (R95, R218), the tile instructions (R222 to R232, R240, R247), and
the two transfer engines (R233 to R245).
-/
namespace Sys2Proof.Machine

/-! ## Resolution -/

/-- Index of the TVIEW word that names a logical tile. -/
def tvIdx (tn : Nat) : Nat := iTVIEW + tn / 4

/-- The physical tile that the active TVIEW names (R93). -/
def Thread.phys (th : Thread) (tn : Nat) : Nat := fld (th.useW (tvIdx tn)) (4 * (tn % 4) + 3) (4 * (tn % 4))

/-- The logical tile is mapped (R95). -/
def State.mapped (s : State) (t tn : Nat) : Bool := tileOwner s.cfg ((s.thr t).phys tn) == some t

/-- TILE_VIEW for the first unmapped tile of a list, else `k` (R218). -/
def State.viewed (s : State) (t : Nat) (tns : List Nat) (k : State → State) : State :=
  match tns.find? (fun tn => !s.mapped t tn) with
  | some tn => s.faultP t fTILE_VIEW (BitVec.ofNat 8 tn) 0
  | none => k s

/-- The first poisoned tile of a list (R247). -/
def State.firstPoison (s : State) (t : Nat) (tns : List Nat) : Option Nat :=
  tns.find? (fun tn => s.poisoned ((s.thr t).phys tn))

/-- A shape that fits a tile (R222). -/
def shapeFits (w : Word) : Bool := decide ((shRows w + 1) * shWpr w ≤ 512)

/-! ## TCFG, SYNC.T, TGET (R222 to R226) -/

/-- A TCFG of a shape word: the first in a handler spills the shapes through SSP (R74, R225). -/
def State.tcfg (s : State) (t tn : Nat) (shape : Word) : State :=
  s.viewed t [tn] (fun s =>
    if ¬ shapeFits shape then s.faultP t fTILE_CFG 0x01 0
    else
      if !(s.thr t).sfill && ((s.thr t).badUse [iSSP]).isSome then s.faultP t fPARITY_REG (BitVec.ofNat 8 (0x40 + iSSP)) 0
      else
        let s := if (s.thr t).sfill then s else s.spillShapes t
        if (s.thr t).st = .felled then s
        else (s.modThr t (fun th => { th with pshapes := Tab.put th.pshapes tn shape })).finish t 2)

/-- TCFG.I. -/
def execTcfgI (t : Tid) (tn : LTile) (shape : Word) (s : State) : Out :=
  issued s t (.tcfgI t tn shape) { words := 2, uses := [tvIdx tn.val] } (fun s => s.tcfg t tn.val shape)

/-- TCFG.R. -/
def execTcfgR (t : Tid) (tn : LTile) (rs : Reg) (s : State) : Out :=
  issued s t (.tcfgR t tn rs) { words := 2, reads := [rs.val], uses := [tvIdx tn.val] } (fun s =>
    s.tcfg t tn.val ((s.thr t).reg rs.val))

/-- SYNC.T. -/
def execSyncT (t : Tid) (s : State) : Out :=
  issued s t (.syncT t) {} (fun s => (s.modThr t Thread.syncShapes).finish t 1)

/-- The status word of TGET (R226). -/
def State.tileStatus (s : State) (t tn : Nat) : Word :=
  let th := s.thr t
  let p := th.phys tn
  let m := s.mapped t tn
  wd (p + 16 * b2n (m && s.poisoned p) + 32 * b2n (Tab.find th.pshapes tn).isSome + 64 * b2n m)

/-- TGET. -/
def execTget (t : Tid) (rd : Reg) (tn : LTile) (s : State) : Out :=
  let p : Pre := { words := 2, writes := pairOf rd.val, uses := [tvIdx tn.val], illegal := oddPair rd.val }
  issued s t (.tget t rd tn) p (fun s =>
    let th := s.thr t
    let vals := [th.shape tn.val, s.tileStatus t tn.val]
    s.spilling t p (fun s => (s.modThr t (fun th => th.writes ((p.writes.map th.regNo).zip vals))).finish t 2))

/-! ## TLD, TST and TZERO at issue (R228 to R234, R240, R247) -/

/-- Pending tile operations of a thread (R234). -/
def Thread.tilePending (th : Thread) : Nat := (th.ops.filter (fun o => o.cls = 3)).length

def TileKind.load : TileKind → Bool
  | .tld | .tldU => true
  | _ => false

def TileKind.sealed : TileKind → Bool
  | .tld | .tst => true
  | _ => false

/-- The checks of R230 and R231: code, AUX and FADDR.ADDR of the first failure. -/
def State.tileRange (s : State) (wt : WT) (k : TileKind) (shape : Word) (base stride slot : Nat) : Option (Nat × Nat) :=
  let p : Perm := if k.load then .r else .w
  match rangeCheck s.cfg wt base (base + shRows shape * stride + shWpr shape - 1) [p] with
  | some e => some e
  | none => if k.sealed then (rangeCheck s.cfg wt slot (slot + 1) [p]).map (fun e => (e.1, slot)) else none

/-- Hands an operation off to the engine of its physical tile (R234). -/
def State.toEngine (s : State) (t words : Nat) (k : TileKind) (tn : Nat) (base stride slot bzi idx : Nat) : State :=
  let th := s.thr t
  let p := th.phys tn
  let pc := th.pc
  let shape := th.shape tn
  let (id, s) := s.handOff t 3 [] [] (k = .tst || k = .tstU) words
  let o : TileOp :=
    { id := id, tid := t, pc := pc, kind := k, tile := p, lt := tn, shape := shape, base := base, stride := stride, slot := slot,
      bzi := bzi, from_ := idx, begun := false, row := if k.sealed then 0 else idx, cyc := 0, c0 := 0, c1 := 0,
      slotVal := (0, 0), badSlot := false, badAt := none, mismatch := false, finished := false, stopReq := false }
  s.setEng (p % 2) (s.engQ (p % 2) ++ [o])

/-- A TLD or TST, sealed with index `bzi` or unsealed. DESIGN CHOICE (log entry 13): R232 gives the capacity of R234 no place in its
order; the third operation waits before its checks. DESIGN CHOICE (log entry 62): FADDR.ADDR holds the low 16 bits of a slot address above
0xFFFF. -/
def execTileMove (i : Instr) (t : Tid) (k : TileKind) (tn : LTile) (ra rs : Reg) (bzi : Nat) (s : State) : Out :=
  let p : Pre :=
    { words := 2, reads := [ra.val, rs.val], uses := [tvIdx tn.val, iMROW, iMROW + 1] ++ (if k.sealed then [iBZBASE] else []),
      long := true }
  issued s t i p (fun s =>
    let th := s.thr t
    if th.tilePending ≥ 2 then s.waitAt t i
    else s.viewed t [tn.val] (fun s =>
      let idx := if th.mres then th.mrow0.toNat else 0
      let shape := th.shape tn.val
      let base := (th.reg ra.val).toNat
      let stride := (th.reg rs.val).toNat
      let slot := (th.useW iBZBASE).toNat + 2 * bzi
      if idx > shRows shape then s.faultP t fTILE_SHAPE 0x05 0
      else if ¬ k.load ∧ s.poisoned (th.phys tn.val) then s.faultP t fBLAZE (BitVec.ofNat 8 tn.val) 0
      else
        match s.tileRange th.wt k shape base stride slot with
        | some (aux, a) => s.faultP t fCOMPARTMENT (BitVec.ofNat 8 aux) (wd a)
        | none =>
          let s := if th.mres then s.modThr t (fun th => th.setMrow 0 0) else s
          s.toEngine t 2 k tn.val base stride slot bzi idx))

/-- TLD, sealed. -/
def execTld (t : Tid) (tn : LTile) (ra rs : Reg) (bzi : BitVec 6) (s : State) : Out :=
  execTileMove (.tld t tn ra rs bzi) t .tld tn ra rs bzi.toNat s
/-- TLD.U. -/
def execTldU (t : Tid) (tn : LTile) (ra rs : Reg) (s : State) : Out := execTileMove (.tldU t tn ra rs) t .tldU tn ra rs 0 s
/-- TST, sealed. -/
def execTst (t : Tid) (tn : LTile) (ra rs : Reg) (bzi : BitVec 6) (s : State) : Out :=
  execTileMove (.tst t tn ra rs bzi) t .tst tn ra rs bzi.toNat s
/-- TST.U. -/
def execTstU (t : Tid) (tn : LTile) (ra rs : Reg) (s : State) : Out := execTileMove (.tstU t tn ra rs) t .tstU tn ra rs 0 s

/-- TZERO. -/
def execTzero (t : Tid) (tn : LTile) (s : State) : Out :=
  issued s t (.tzero t tn) { uses := [tvIdx tn.val], long := true } (fun s =>
    if (s.thr t).tilePending ≥ 2 then s.waitAt t (.tzero t tn)
    else s.viewed t [tn.val] (fun s => s.toEngine t 1 .tzero tn.val 0 0 0 0 0))

/-! ## The transfer engines (R235, R236, R239 to R245) -/

/-- One word of a blaze (R241). -/
def fletcher (c : Nat × Nat) (w : Word) : Nat × Nat :=
  let c0 := (c.1 + w.toNat) % 65535
  (c0, (c.2 + c0) % 65535)

/-- Writes back the progress of an operation. -/
def State.setTileOp (s : State) (o : TileOp) : State :=
  { s with eng := s.eng.mapVal (fun q => q.map (fun x => if x.id = o.id then o else x)) }

/-- Takes up an operation: the blaze slot is read, or written with 0xFFFF_FFFF (R236, R242, R243). -/
def State.beginTile (s : State) (o : TileOp) : State :=
  match o.kind with
  | .tld =>
    s.setTileOp { o with begun := true, slotVal := ((s.mget o.slot).d, (s.mget (o.slot + 1)).d), badSlot := (s.badIn o.slot 2).isSome }
  | .tst => (s.msetList o.slot [0xFFFF, 0xFFFF]).setTileOp { o with begun := true }
  | _ => s.setTileOp { o with begun := true }

/-- TILE_OP_START: the next operation begins once every earlier one has made its last port cycle. -/
def execTileOpStart (x : EngNo) (s : State) : Out :=
  let q := s.engQ x.val
  .next (if ¬ s.flows then s
    else match q.find? (fun o => !o.begun) with
      | none => s
      | some o =>
        if (q.filter (·.begun)).all (fun b => b.finished && b.kind != .tst) then s.beginTile o else s)

/-- The words of the next transfer cycle of a row (R235): first tile word, first local-memory address, count, and whether the
row ends with it. -/
def TileOp.span (o : TileOp) : Nat × Nat × Nat × Bool :=
  let wpr := shWpr o.shape
  let a := o.base + o.row * o.stride
  let lo := max a (4 * (a / 4 + 8 * o.cyc))
  let hi := min (a + wpr) (4 * (a / 4 + 8 * (o.cyc + 1)))
  (o.row * wpr + (lo - a), lo, hi - lo, decide (hi = a + wpr))

/-- The words a transfer cycle moves, in a load: rows below IDX of a resumption are compared, the others written (R240, R243). -/
def State.loadCycle (s : State) (o : TileOp) : State × TileOp :=
  let (w, a, n, _) := o.span
  let ws := (s.mwords a n).map (·.d)
  let c := ws.foldl fletcher (o.c0, o.c1)
  let badAt := match o.badAt with
    | some b => some b
    | none => s.badIn a n
  let o := { o with c0 := c.1, c1 := c.2, badAt := badAt }
  if o.row < o.from_ then
    let same := (List.range n).all (fun i => s.tget o.tile (w + i) == pw (ws.getD i 0))
    (s, { o with mismatch := o.mismatch || !same })
  else (s.tsetList o.tile w ws, o)

/-- The first of `n` tile words whose parity fails (R216). -/
def State.badTile (s : State) (p i n : Nat) : Option Nat :=
  ((List.range n).map (i + ·)).find? (fun k => !parOk (s.tget p k))

/-- A store cycle: a tile word with failing parity stops the TST before anything is written (R245). -/
def State.storeCycle (s : State) (o : TileOp) : State × TileOp :=
  let (w, a, n, _) := o.span
  match s.badTile o.tile w n with
  | some i => (s.setPoison o.tile true, { o with badAt := some i, finished := true })
  | none =>
    let ws := (List.range n).map (fun i => (s.tget o.tile (w + i)).d)
    let c := ws.foldl fletcher (o.c0, o.c1)
    (if o.row < o.from_ then s else s.msetList a ws, { o with c0 := c.1, c1 := c.2 })

/-- The cycle after this one; the operation finishes with its last row, and a requested stop comes between two rows (R239). -/
def State.nextCycle (s : State) (o : TileOp) (rowEnd : Bool) : State :=
  if o.finished then s.setTileOp o
  else if ¬ rowEnd then s.setTileOp { o with cyc := o.cyc + 1 }
  else
    let o := { o with row := o.row + 1, cyc := 0 }
    if o.row > shRows o.shape then s.setTileOp { o with finished := true }
    else if o.stopReq then s.stopTile o
    else s.setTileOp o

/-- TRANSFER_CYCLE: one transfer cycle, or one port cycle of a TZERO. -/
def execTransferCycle (x : EngNo) (s : State) : Out :=
  .next (if ¬ s.flows then s
    else match (s.engQ x.val).find? (fun o => o.begun && !o.finished) with
      | none => s
      | some o =>
        match o.kind with
        | .tzero =>
          (s.tsetList o.tile (32 * o.cyc) (List.replicate 32 0)).setTileOp
            { o with cyc := o.cyc + 1, finished := decide (o.cyc + 1 = 16) }
        | .tld | .tldU => let (s, o') := s.loadCycle o; s.nextCycle o' o.span.2.2.2
        | .tst | .tstU => let (s, o') := s.storeCycle o; s.nextCycle o' o.span.2.2.2)

/-- Retires an operation, with its completion fault when there is one. -/
def State.retireTile (s : State) (o : TileOp) (f : Option Item) : State :=
  let s := s.offEngine o.id
  match f with
  | some it => (s.complete o.tid o.id it).retire o.tid o.id []
  | none => s.retire o.tid o.id []

/-- A retirement event of kind `k` on engine `x`: the first operation, when it is of that kind and has made its last cycle. -/
def execTileRetire (x : EngNo) (k : TileKind) (f : State → TileOp → State) (s : State) : Out :=
  .next (if ¬ s.flows then s
    else match (s.engQ x.val).head? with
      | some o => if o.kind = k ∧ o.finished then f s o else s
      | none => s)

/-- TLD_RETIRE (R243, R247). -/
def execTldRetire (x : EngNo) (s : State) : Out :=
  execTileRetire x .tld (fun s o =>
    let par := o.badSlot || o.badAt.isSome
    let dif := o.mismatch || !decide (o.slotVal = (wd o.c0, wd o.c1))
    if par || dif then
      let aux := o.bzi + 64 * b2n par + 128 * b2n dif
      (s.setPoison o.tile true).retireTile o (some (item fBLAZE (BitVec.ofNat 8 aux) o.pc (wd o.base)))
    else (s.setPoison o.tile false).retireTile o none) s

/-- TLD_U_RETIRE (R244, R247). -/
def execTldURetire (x : EngNo) (s : State) : Out :=
  execTileRetire x .tldU (fun s o =>
    match o.badAt with
    | some a => (s.setPoison o.tile true).retireTile o (some (item fPARITY_LM 0x04 o.pc (wd a)))
    | none => (s.setPoison o.tile false).retireTile o none) s

/-- PARITY_REG of a TST (R245). -/
def TileOp.badItem (o : TileOp) : Option Item :=
  o.badAt.map (fun i => item fPARITY_REG (BitVec.ofNat 8 (0x70 + o.lt)) o.pc (wd i))

/-- TST_RETIRE: writes the blaze unless the TST stopped (R241, R242, R245). -/
def execTstRetire (x : EngNo) (s : State) : Out :=
  execTileRetire x .tst (fun s o =>
    let s := if o.badAt.isSome then s else s.msetList o.slot [wd o.c0, wd o.c1]
    s.retireTile o o.badItem) s

/-- TST_U_RETIRE. -/
def execTstURetire (x : EngNo) (s : State) : Out := execTileRetire x .tstU (fun s o => s.retireTile o o.badItem) s

/-- TZERO_RETIRE. -/
def execTzeroRetire (x : EngNo) (s : State) : Out :=
  execTileRetire x .tzero (fun s o => (s.setPoison o.tile false).retireTile o none) s

end Sys2Proof.Machine
end

