-- ==== Sys2Proof/Machine/Matrix.lean ====
section
/-!
DEFINITION. The matrix instructions at issue: shapes (R257, R258), the checks of R290 in their order, and the hand-off of MSTAT,
MSTAT.C, MTAB and MSTREAM (files 08 and 09).
-/
namespace Sys2Proof.Machine

/-! ## Shapes (R257, R258, R261, R276, R282, R291) -/

/-- Output rows R of a shape (R261). -/
def shpR (sh : Nat) : Nat := [8, 4, 2, 1, 4, 8, 4].getD sh 1
/-- Output columns C, which are also the weights of one weight row (R259, R261). -/
def shpC (sh : Nat) : Nat := [16, 32, 64, 128, 16, 8, 8].getD sh 1
/-- Input rows that the stationary loader writes (R291). -/
def shpIn (sh : Nat) : Nat := [8, 4, 2, 1, 8, 8, 4].getD sh 1
/-- Cell rows of a region, R_c (R261). -/
def shpRc (sh : Nat) : Nat := if sh = 6 then 4 else 8

/-- The K limit of R258. -/
def kLimit (sh : Nat) (ty : ETy) : Nat :=
  let n := if sh = 4 then 256 else if sh ≥ 5 then 64 else 128
  if ty = .fp32 then n / 2 else n

/-- The shape is one of the MODE (R276). -/
def modePermits (mode sh : Nat) : Bool :=
  (decide (mode = 0) && decide (sh ≤ 4)) || (decide (mode = 1) && decide (sh = 5)) || (decide (mode = 2) && decide (sh = 6))

/-- A PROB that the shape has not (R282). -/
def probBad (sh p : Nat) : Bool := (decide (sh ≤ 4) && decide (p > 0)) || (decide (sh = 5) && decide (p > 1))

/-! ## The share table (R276) -/

def shareMode (c : Tab Word) (a : Nat) : Nat := fld (shareW c a 0) 1 0
def shareCount (c : Tab Word) (a : Nat) : Nat := fld (shareW c a 0) 6 2
/-- The chain holder of a slot. -/
def chainHolder (c : Tab Word) (a slot : Nat) : Option Nat :=
  let w := shareW c a (1 + slot)
  if bit w 6 then some (fld w 5 0) else none
def entTid (c : Tab Word) (a e : Nat) : Nat := fld (shareW c a (5 + e)) 5 0
def entProb (c : Tab Word) (a e : Nat) : Nat := fld (shareW c a (5 + e)) 7 6
/-- The entries of a slot, in ascending number. -/
def slotEntries (c : Tab Word) (a slot : Nat) : List Nat :=
  (List.range (min (shareCount c a) 16)).filter (fun e => entProb c a e = slot)

/-- Item 1 of R272: the thread has an entry for the array, in P2 and P4 for the slot. -/
def hasShare (c : Tab Word) (a t slot : Nat) : Bool :=
  (List.range (min (shareCount c a) 16)).any (fun e =>
    decide (entTid c a e = t) && (decide (shareMode c a = 0) || decide (entProb c a e = slot)))

/-! ## Steps of R290 as a chain of checks -/

/-- Steps 1 to 3: the descriptor of `n` words at `addr`, read a pair in a slot (R50), a failing word in the slot of its pair. An
instruction that has read it before it waited goes on with what it read (R283). -/
def State.readDesc (s : State) (t : Nat) (addr : Word) (n : Nat) (k : State → List Word → State) : State :=
  match (if (s.thr t).again then (s.thr t).desc else none) with
  | some d => k s d
  | none =>
    if bit addr 0 then s.faultP t fALIGN 0 addr
    else
      let as := (List.range n).map (fun i => addr + wd i)
      match as.findSome? (fun a => (s.cmp (s.thr t).wt a.toNat .r).map (fun aux => (aux, a))) with
      | some (aux, a) => s.faultP t fCOMPARTMENT (BitVec.ofNat 8 aux) a
      | none =>
        match as.find? (fun a => !parOk (s.mget a.toNat)) with
        | some a => (s.modThr t (fun th => th.slots (as.idxOf a / 2 + 1))).faultP t fPARITY_LM 0x06 a
        | none => k (s.modThr t (fun th => th.slots (n / 2))) (as.map (fun a => (s.mget a.toNat).d))

/-- One check: the fault when the condition holds, else the rest. -/
def State.deny (s : State) (t : Nat) (bad : Bool) (code aux : BitVec 8) (faddr : Word) (k : State) : State :=
  if bad then s.faultP t code aux faddr else k

/-- Step 5. -/
def State.notFelled (s : State) (t a : Nat) (k : State) : State :=
  s.deny t (s.arr a).felled fARRAY_FELLED (BitVec.ofNat 8 a) 0 k

/-- Parity of the TVIEW words that name the tiles (R74), then step 6 (R218). -/
def State.viewOk (s : State) (t : Nat) (tns : List Nat) (k : State) : State :=
  match tns.find? (fun tn => !parOk ((s.thr t).useP (tvIdx tn))) with
  | some tn => s.faultP t fPARITY_REG (BitVec.ofNat 8 (0x40 + tvIdx tn)) 0
  | none => s.viewed t tns (fun _ => k)

/-- Items 1 and 2 of R272. -/
def State.shared (s : State) (t a slot : Nat) (shape : Option Nat) (k : State) : State :=
  s.deny t (!hasShare s.cfg a t slot) fSTAT_OWNER 0x06 0
    (s.deny t (match shape with
      | some sh => !modePermits (shareMode s.cfg a) sh
      | none => false) fTILE_SHAPE 0x35 0 k)

/-- Step 11 (R247). -/
def State.sound (s : State) (t : Nat) (tns : List Nat) (k : State) : State :=
  match s.firstPoison t tns with
  | some tn => s.faultP t fBLAZE (BitVec.ofNat 8 tn) 0
  | none => k

/-- Step 12: the ranges in order, each from its lowest to its highest word. -/
def State.ranges (s : State) (t : Nat) (l : List (Nat × Nat × Perm)) (k : State) : State :=
  match l.findSome? (fun r => rangeCheck s.cfg (s.thr t).wt r.1 r.2.1 [r.2.2]) with
  | some (aux, a) => s.faultP t fCOMPARTMENT (BitVec.ofNat 8 aux) (wd a)
  | none => k

/-- Pending matrix instructions of a thread (R285). -/
def Thread.matrixPending (th : Thread) : Nat := (th.ops.filter (fun o => o.cls = 4)).length

/-- The array has passed its self-test (R273, R451). -/
def State.arrayReady (s : State) (a : Nat) : Bool := bit s.ready (6 + a)

/-- Steps 13 and 14; an instruction that waits keeps the descriptor `d` that it has read (R283). -/
def State.arrayFree (s : State) (t a : Nat) (i : Instr) (d : Option (List Word)) (k : State) : State :=
  let keep (s : State) : State := s.modThr t (fun th => { th with desc := d })
  if (s.thr t).matrixPending ≥ 4 then keep (s.waitAt t i)
  else if ¬ s.arrayReady a then keep (s.park t (.array a) i)
  else k

/-! ## MSTAT, MSTAT.C and MTAB -/

/-- Hands a loader job off; MSTAT and MSTAT.C set the record (R267). -/
def State.toLoader (s : State) (t a slot words : Nat) (kind : JobKind) (shape : Nat) (ty : ETy) (kl : Nat) (record : Bool) : State :=
  let pc := (s.thr t).pc
  let (id, s) := s.handOff t 4 [] [] false words
  let j : Job := ⟨id, t, pc, slot, kind, shape, ty, kl, 0, 0, [], none, Counts.zero, false, false⟩
  s.modArr a (fun x =>
    { x with
      jobs := x.jobs ++ [j]
      recs := if record then Tab.put x.recs slot ⟨t, shape, ty, kl⟩ else x.recs })

/-- MSTAT (R291). -/
def execMstat (t : Tid) (a : ArrNo) (tn : LTile) (shape : BitVec 3) (p : BitVec 2) (s : State) : Out :=
  let i : Instr := .mstat t a tn shape p
  issued s t i { words := 2, uses := [tvIdx tn.val], long := true, illegal := if shape.toNat = 7 then some 0x01 else none, late := true } (fun s =>
    let th := s.thr t
    let sh := shape.toNat
    let slot := p.toNat
    let w := th.shape tn.val
    let ty := shType w
    let kl := if sh = 4 then 2 * (shElems w + 1) else shElems w + 1
    s.deny t (probBad sh slot) fTILE_SHAPE 0x38 0 (
    s.notFelled t a (
    s.viewed t [tn.val] (fun s =>
    s.deny t (ty == .int32) fTILE_SHAPE 0x30 0 (
    s.shared t a slot (some sh) (
    s.deny t (decide (kl > kLimit sh ty)) fTILE_SHAPE 0x33 0 (
    s.deny t (decide (shRows w + 1 ≠ shpIn sh)) fTILE_SHAPE 0x39 0 (
    s.sound t [tn.val] (
    s.arrayFree t a i none (
    s.toLoader t a slot 2 (.tile (th.phys tn.val) tn.val w) sh ty kl true))))))))))

/-- Fields of a convolution descriptor (R293). -/
structure Conv where
  base : Nat
  h : Nat
  w : Nat
  c : Nat
  ty : ETy
  pstride : Nat
  kh : Nat
  kw : Nat
  st : Nat
  dl : Nat
  padt : Nat
  padl : Nat
  ow : Nat
  oy0 : Nat
  ox0 : Nat
  kstart : Nat
  deriving DecidableEq, Repr

def Conv.of (d : List Word) : Conv :=
  let w (i : Nat) : Word := d.getD i 0
  { base := (w 0).toNat, h := fld (w 1) 7 0 + 1, w := fld (w 1) 15 8 + 1, c := fld (w 2) 9 0 + 1, ty := ETy.ofCode (fld (w 2) 12 10),
    pstride := (w 3).toNat, kh := fld (w 4) 3 0 + 1, kw := fld (w 4) 7 4 + 1, st := fld (w 4) 10 8 + 1, dl := fld (w 4) 13 11 + 1,
    padt := fld (w 5) 3 0, padl := fld (w 5) 7 4, ow := fld (w 5) 15 8 + 1, oy0 := fld (w 6) 7 0, ox0 := fld (w 6) 15 8,
    kstart := (w 7).toNat }

/-- The word at which the pixel of input row `i` and tap `tap` begins; none for padding (R294). -/
def Conv.pixel (v : Conv) (i tap : Nat) : Option Nat :=
  let n := v.oy0 * v.ow + v.ox0 + i
  let y : Int := (n / v.ow * v.st + tap / v.kw * v.dl : Nat) - (v.padt : Int)
  let x : Int := (n % v.ow * v.st + tap % v.kw * v.dl : Nat) - (v.padl : Int)
  if y < 0 ∨ y ≥ v.h ∨ x < 0 ∨ x ≥ v.w then none else some (v.base + (y.toNat * v.w + x.toNat) * v.pstride)

/-- The taps of a K range: tap number, first and last channel (R294, R296). -/
def Conv.taps (v : Conv) (kcnt : Nat) : List (Nat × Nat × Nat) :=
  let lo := v.kstart
  let hi := v.kstart + kcnt - 1
  (List.range (hi / v.c + 1 - lo / v.c)).map (fun j =>
    let tap := lo / v.c + j
    (tap, (if tap = lo / v.c then lo % v.c else 0), if tap = hi / v.c then hi % v.c else v.c - 1))

/-- The words of a run: the first and how many (R176, R296). -/
def Conv.runWords (v : Conv) (px c0 c1 : Nat) : Nat × Nat :=
  let lo := (v.ty.elemWords c0).1
  let e := v.ty.elemWords c1
  (px + lo, e.1 + e.2 - lo)

/-- The runs of a gather in order: none for padding, else the input row, the tap's channels and the words (R296). -/
def Conv.runs (v : Conv) (rows kcnt : Nat) : List (Option (Nat × Nat)) :=
  (v.taps kcnt).flatMap (fun tap =>
    (List.range rows).map (fun i => (v.pixel i tap.1).map (fun px => v.runWords px tap.2.1 tap.2.2)))

/-- The range of R295. -/
def Conv.span (v : Conv) (rows kcnt : Nat) : Option (Nat × Nat) :=
  (v.runs rows kcnt).foldl (fun b r =>
    match b, r with
    | b, none => b
    | none, some (a, n) => some (a, a + n - 1)
    | some (lo, hi), some (a, n) => some (min lo a, max hi (a + n - 1))) none

/-- MSTAT.C (R293 to R297). -/
def execMstatC (t : Tid) (a : ArrNo) (rs : Reg) (shape : BitVec 3) (p : BitVec 2) (kcntM1 : BitVec 7) (s : State) : Out :=
  let i : Instr := .mstatC t a rs shape p kcntM1
  issued s t i { words := 2, reads := [rs.val], long := true, illegal := if shape.toNat = 7 then some 0x01 else none, late := true } (fun s =>
    let th := s.thr t
    let sh := shape.toNat
    let slot := p.toNat
    let kl := kcntM1.toNat + 1
    let addr := th.reg rs.val
    s.readDesc t addr 8 (fun s d =>
    let v := Conv.of d
    s.deny t (probBad sh slot) fTILE_SHAPE 0x38 0 (
    s.deny t (decide (fld (d.getD 2 0) 15 13 ≠ 0)) fTILE_SHAPE 0x38 (addr + 2) (
    s.deny t (decide (fld (d.getD 4 0) 15 14 ≠ 0)) fTILE_SHAPE 0x38 (addr + 4) (
    s.deny t (decide (v.kstart + kl > v.kh * v.kw * v.c)) fTILE_SHAPE 0x38 (addr + 7) (
    s.notFelled t a (
    s.deny t (v.ty == .int32) fTILE_SHAPE 0x30 0 (
    s.shared t a slot (some sh) (
    s.deny t (decide (kl > kLimit sh v.ty)) fTILE_SHAPE 0x33 0 (
    s.deny t (decide (sh = 4)) fTILE_SHAPE 0x37 0 (
    s.ranges t (match v.span (shpIn sh) kl with
      | some (lo, hi) => [(lo, hi, .r)]
      | none => []) (
    s.arrayFree t a i (some d) (
    s.toLoader t a slot 2 (.gather d) sh v.ty kl true)))))))))))))

/-- MTAB (R304). -/
def execMtab (t : Tid) (a : ArrNo) (tn : LTile) (p : BitVec 2) (s : State) : Out :=
  let i : Instr := .mtab t a tn p
  issued s t i { words := 2, uses := [tvIdx tn.val], long := true } (fun s =>
    let th := s.thr t
    let slot := p.toNat
    let mode := shareMode s.cfg a
    let w := th.shape tn.val
    let ty := shType w
    s.deny t ((decide (mode = 0) && decide (slot > 0)) || (decide (mode = 1) && decide (slot > 1))) fTILE_SHAPE 0x38 0 (
    s.notFelled t a (
    s.viewed t [tn.val] (fun s =>
    s.shared t a slot none (
    s.deny t (!(ty == .fp16 || ty == .bf16) || decide (shElems w < 15)) fTILE_SHAPE 0x3C 0 (
    s.sound t [tn.val] (
    s.arrayFree t a i none (
    let s := s.toLoader t a slot 2 (.table (th.phys tn.val) tn.val w) 0 ty 16 false
    s.modArr a (fun x =>
      let x' := Tab.get ⟨none, .fp16, [], none⟩ x.tabs slot
      { x with tabs := Tab.put x.tabs slot { x' with owner := some t.val, ty := ty } })))))))))

/-! ## MSTREAM -/

/-- Fields of a stream descriptor (R298). -/
def dsW (d : List Word) (i : Nat) : Word := d.getD i 0
def dsShape (d : List Word) : Nat := fld (dsW d 0) 2 0
def dsProb (d : List Word) : Nat := fld (dsW d 0) 4 3
def dsEnd (d : List Word) : Bool := bit (dsW d 0) 5
def dsStart (d : List Word) : Bool := bit (dsW d 0) 6
def dsMp (d : List Word) : Nat := fld (dsW d 0) 8 7
def dsWty (d : List Word) : ETy := ETy.ofCode (fld (dsW d 0) 11 9)
def dsExp (d : List Word) : Nat := fld (dsW d 0) 13 12
def dsZw (d : List Word) : Nat := fld (dsW d 0) 15 14
def dsNpm1 (d : List Word) : Nat := fld (dsW d 1) 7 0
def dsK (d : List Word) : Nat := fld (dsW d 1) 15 8 + 1
def dsWsrc (d : List Word) : Bool := bit (dsW d 2) 0
def dsWtile (d : List Word) : Nat := fld (dsW d 2) 3 1
def dsOtile (d : List Word) : Nat := fld (dsW d 2) 6 4
def dsOkind (d : List Word) : Nat := fld (dsW d 2) 8 7
def dsOty (d : List Word) : ETy := ETy.ofCode (fld (dsW d 2) 11 9)
def dsRmode (d : List Word) : Nat := fld (dsW d 2) 13 12
def dsScl (d : List Word) : Bool := bit (dsW d 2) 14
def dsCscale (d : List Word) : Word32 := mk32 (dsW d 11) (dsW d 12)
/-- Steps of a pass, K_s (R260). -/
def dsSteps (d : List Word) : Nat := if dsShape d = 4 then dsK d / 2 else dsK d
/-- The pass reads scale records (R203). -/
def dsRecs (d : List Word) : Bool := decide (dsExp d = 2) || (decide (dsExp d = 1) && dsScl d)
/-- Words of the zero-point record of a block, Zw (R207). -/
def dsZwords (d : List Word) : Nat := if dsZw d = 1 then shpC (dsShape d) / 4 else if dsZw d = 2 then shpC (dsShape d) / 2 else 0
/-- Words of the records of one block. -/
def dsRecWords (d : List Word) : Nat := shpC (dsShape d) + dsZwords d
/-- Words of one weight row in local memory. -/
def dsRowWords (d : List Word) : Nat := (dsWty d).wpr (shpC (dsShape d))

/-- Step 4 for a descriptor: the first word with a field value that is not accepted (R282, R298, R300, R302). DESIGN CHOICE (log entry
24): R290 has FADDR.ADDR name the descriptor word and does not say which where a condition spans two; NPM1 against the chain flags names word 1,
SCL against EXP word 2, CSCALE word 11, and KSTART + KCNT of a gather word 7. -/
def fieldBad (d : List Word) : Option Nat :=
  let sh := dsShape d
  let exp := dsExp d
  let c := dsCscale d
  let tile := decide (dsOkind d ≠ 0)
  if sh = 7 ∨ probBad sh (dsProb d) ∨ dsMp d = 0 ∨ exp = 3 ∨ dsZw d = 3 ∨ (exp ≤ 1 ∧ dsZw d ≠ 0) then some 0
  else if ¬ (dsStart d ∧ dsEnd d) ∧ dsNpm1 d ≠ 0 then some 1
  else if bit (dsW d 2) 15 ∨ dsOkind d = 3 ∨ dsRmode d = 3 ∨ (dsScl d ∧ exp ≠ 1) then some 2
  else if tile ∧ fld (dsW d 8) 15 13 ≠ 0 then some 8
  else if tile ∧ fld (dsW d 10) 15 13 ≠ 0 then some 10
  else if (match dec32 c with
      | .fin _ m _ => isSubnormal .fp32 c.toNat || (decide (m = 0) && c.getLsbD 31)
      | _ => true) then some 11
  else if fld (dsW d 13) 15 5 ≠ 0 then some 13
  else if dsW d 14 ≠ 0 then some 14
  else if dsW d 15 ≠ 0 then some 15
  else none

/-- Step 7: the conditions without the stationary type (R180, R302, R517). MP outside the multipass path and a merge outside the
integer path are conditions on the path, which the stationary type decides (R179): `pairBad` has them. -/
def pairBad0 (d : List Word) : Bool :=
  let wt := dsWty d
  let exp := dsExp d
  decide (wt = .int32) || (decide (exp = 1) && !wt.isInt4) || (decide (exp = 2) && decide (wt = .fp32)) ||
    (decide (dsOkind d = 2) && decide (dsOty d ≠ .fp32))

/-- The pairings and paths that R179 lists, with the conditions of R302 on the path. -/
def pairBad (st : ETy) (d : List Word) : Bool :=
  let wt := dsWty d
  let exp := dsExp d
  match st with
  | .fp32 => decide (wt ≠ .fp32) || decide (exp ≠ 0) || decide (dsOkind d = 2)
  | .fp16 | .bf16 =>
    !((decide (wt = st) && decide (exp = 0)) || (wt.isNarrow && decide (exp ≠ 0))) || decide (dsMp d ≠ 1) || decide (dsOkind d = 2)
  | .int32 => true
  | _ => !wt.isNarrow || decide (exp = 1) || decide (dsMp d ≠ 1) || (decide (exp = 2) && decide (dsOkind d ≠ 2))

/-- The weights of one step (R259): 2 × 16 in 4x16K2, of which a weight row holds 16 (R299). -/
def stepWeights (sh : Nat) : Nat := if sh = 4 then 32 else shpC sh

/-- The weight tile (R303). R303 compares ELEMS + 1 with the weights of one step, which the table of R259 gives as 2 × 16 in
4x16K2. DEDUCED (log entry 41). -/
def weightTileBad (d : List Word) (w : Word) : Bool :=
  decide (shType w ≠ dsWty d) || decide (shElems w + 1 < stepWeights (dsShape d)) ||
    decide ((dsW d 3).toNat + dsNpm1 d * (dsW d 5).toNat + dsK d - 1 > shRows w)

/-- The destination tile (R303). -/
def destTileBad (d : List Word) (w : Word) : Bool :=
  let c0 := fld (dsW d 8) 6 0
  let r0 := fld (dsW d 8) 12 7
  let cs := fld (dsW d 10) 6 0
  let rs := fld (dsW d 10) 12 7
  let e := (dsOty d).perWord
  decide (shType w ≠ dsOty d) || decide (c0 % e ≠ 0) || decide (cs % e ≠ 0) ||
    decide (r0 + dsNpm1 d * rs + shpR (dsShape d) - 1 > shRows w) ||
    decide (c0 + dsNpm1 d * cs + shpC (dsShape d) - 1 > shElems w)

/-- The ranges of step 12 for the passes from `idx` on (R299, R307). -/
def streamRanges (d : List Word) (idx : Nat) : List (Nat × Nat × Perm) :=
  let sh := dsShape d
  let n := dsNpm1 d
  let at_ (base step i : Nat) : Nat := base + i * step
  let wb := (dsW d 3).toNat
  let wp := (dsW d 5).toNat
  let sb := (dsW d 6).toNat
  let sp := (dsW d 7).toNat
  let ob := (dsW d 8).toNat
  let op := (dsW d 10).toNat
  (if dsWsrc d then [] else [(at_ wb wp idx, at_ wb wp n + (dsK d - 1) * (dsW d 4).toNat + dsRowWords d - 1, .r)]) ++
  (if dsRecs d then [(at_ sb sp idx, at_ sb sp n + cdiv (dsK d) 32 * dsRecWords d - 1, .r)] else []) ++
  (if dsEnd d ∧ dsOkind d = 0 then
    [(at_ ob op idx, at_ ob op n + (shpR sh - 1) * (dsW d 9).toNat + (dsOty d).wpr (shpC sh) - 1, .w)] else [])

/-- Items 3 to 8 of R272 for an MSTREAM, with R517 after item 4. -/
def State.streamOwner (s : State) (t a : Nat) (d : List Word) (k : StatRec → State) : State :=
  let sh := dsShape d
  let slot := dsProb d
  match Tab.find (s.arr a).recs slot with
  | none => s.faultP t fSTAT_OWNER 0x02 0
  | some r =>
    let single := dsStart d && dsEnd d
    let chain := Tab.find (s.arr a).chains slot
    s.deny t (decide (r.owner ≠ t)) fSTAT_OWNER 0x01 0 (
    s.deny t (pairBad r.ty d) fTILE_SHAPE 0x30 0 (
    s.deny t (decide (r.shape ≠ sh)) fTILE_SHAPE 0x32 0 (
    s.deny t (decide (dsK d > r.kl) || decide (dsK d > kLimit sh r.ty)) fTILE_SHAPE 0x33 0 (
    s.deny t (decide (sh = 4) && decide (dsK d % 2 = 1)) fTILE_SHAPE 0x34 0 (
    s.deny t (!single && decide (chainHolder s.cfg a slot ≠ some t)) fSTAT_OWNER 0x03 0 (
    s.deny t (!dsStart d && chain.isNone) fSTAT_OWNER 0x04 0 (
    s.deny t (dsStart d && !dsEnd d && chain.isSome) fSTAT_OWNER 0x05 0 (k r))))))))

/-- Step 9 (R304). -/
def State.tableOwner (s : State) (t a : Nat) (d : List Word) (st : ETy) (k : State) : State :=
  if dsExp d ≠ 1 then k
  else
    let x := Tab.get ⟨none, .fp16, [], none⟩ (s.arr a).tabs (dsProb d)
    s.deny t (decide (x.owner ≠ some t)) fSTAT_OWNER 0x07 0 (s.deny t (decide (x.ty ≠ st)) fTILE_SHAPE 0x30 0 k)

def Seen.none : Seen := ⟨0, Option.none, Option.none, false, false⟩

/-- The hand-off of an MSTREAM: its passes from `idx` on, the chain state, MROW and MSEED (R197, R264, R284, R307). -/
def State.toStream (s : State) (t a : Nat) (d : List Word) (r : StatRec) (idx : Nat) : State :=
  let th := s.thr t
  let slot := dsProb d
  let seed := th.mseed
  let mchk := th.useW iMCHK
  let s := s.modThr t (fun th =>
    let th := if th.mres then th.setMrow 0 0 else th
    th.setMseed (seedNext seed))
  let (id, s) := s.handOff t 4 [] [] false 1
  let single := dsStart d && dsEnd d
  let ch : Chain := if dsStart d then ⟨id, t, th.pc⟩ else Tab.get ⟨id, t, th.pc⟩ (s.arr a).chains slot
  let mk (p : Nat) : Pass :=
    { id := s.nextId + (p - idx), sid := id, tid := t, pc := th.pc, slot := slot, p := p, desc := d, stype := r.ty, seed := seed,
      mchk := mchk, wtile := th.phys (dsWtile d), wshape := th.shape (dsWtile d), otile := th.phys (dsOtile d),
      oshape := th.shape (dsOtile d), firstPc := ch.firstPc, inChain := !single, chain := ch.id, phase := .waiting, buf := 0, sub := 0,
      k := 0, recs := [], lanes := [], shadow := [], differs := false, expd := false, row := 0, out := [], outCnt := [], vAt := 0, seen := Seen.none, orphan := false, wr := 0, wc := 0 }
  let ps := (List.range (dsNpm1 d + 1 - idx)).map (fun j => mk (idx + j))
  let m : Stream := ⟨id, t, th.pc, slot, d, seed, Counts.zero, none, none, false⟩
  let s := { s with nextId := s.nextId + ps.length }
  s.modArr a (fun x =>
    { x with
      passes := x.passes ++ ps
      streams := x.streams ++ [m]
      chains := if single then x.chains else if dsEnd d then Tab.del x.chains slot else Tab.put x.chains slot ch })

/-- MSTREAM (R290, R298 to R303, R307). -/
def execMstream (t : Tid) (a : ArrNo) (rs : Reg) (s : State) : Out :=
  let i : Instr := .mstream t a rs
  issued s t i { reads := [rs.val], uses := [iMCHK, iMSEED, iMSEED + 1, iMROW, iMROW + 1], long := true } (fun s =>
    let th := s.thr t
    let addr := th.reg rs.val
    s.readDesc t addr 16 (fun s d =>
    match fieldBad d with
    | some w => s.faultP t fTILE_SHAPE 0x38 (addr + wd w)
    | none =>
      let sh := dsShape d
      let idx := if th.mres then th.mrow0.toNat else 0
      let tileDest := dsEnd d && decide (dsOkind d ≠ 0)
      let tns := (if dsWsrc d then [dsWtile d] else []) ++ (if tileDest then [dsOtile d] else [])
      s.deny t (th.mres && (decide (idx > dsNpm1 d) || decide (fld th.mrow1 14 0 ≠ 0))) fTILE_SHAPE 0x3D 0 (
      s.notFelled t a (
      s.viewOk t tns (
      s.deny t (pairBad0 d) fTILE_SHAPE 0x30 0 (
      s.shared t a (dsProb d) (some sh) (
      s.streamOwner t a d (fun r =>
      s.tableOwner t a d r.ty (
      s.deny t (dsWsrc d && weightTileBad d (th.shape (dsWtile d))) fTILE_SHAPE 0x3A 0 (
      s.deny t (tileDest && destTileBad d (th.shape (dsOtile d))) fTILE_SHAPE 0x3B 0 (
      s.deny t (dsWsrc d && decide (sh ≥ 5)) fTILE_SHAPE 0x36 0 (
      s.deny t (decide (dsExp d = 2) && r.ty.isNarrow && decide (dsK d > 32)) fTILE_SHAPE 0x31 0 (
      s.sound t tns (
      s.ranges t (streamRanges d idx) (
      s.arrayFree t a i (some d) (
      s.toStream t a d r idx))))))))))))))))

end Sys2Proof.Machine
end

