-- ==== Sys2Proof/Machine/Arrays.lean ====
section
/-!
DEFINITION. The matrix arrays at work: the stationary loader (R268 to R270, R292 to R296), the expansion table (R304), passes and
the share rotation (R261 to R265, R278), the arithmetic of the cells and of the checksum sections (R181 to R185, R202 to R209, R257,
R274, R311 to R316), the drain and the checker (R194, R206, R317 to R331), and retirement (R287, R305, R307).
-/
namespace Sys2Proof.Machine

/-! ## Cells, sections and store positions -/

/-- Cell rows of the region of a slot (R257). -/
def regRows (sh slot : Nat) : List Nat := if sh = 6 then (List.range 4).map (4 * (slot / 2) + ·) else List.range 8
/-- Cell columns of the region of a slot. -/
def regCols (sh slot : Nat) : List Nat := if sh ≥ 5 then (List.range 8).map (8 * (slot % 2) + ·) else List.range 16
/-- Blocks (g, h) of the region (R311). -/
def regBlocks (sh slot : Nat) : List (Nat × Nat) :=
  if sh = 6 then [(slot / 2, slot % 2)] else if sh = 5 then [(0, slot), (1, slot)] else [(0, 0), (0, 1), (1, 0), (1, 1)]

/-- Output row of a cell (R257). -/
def cellRow (sh i : Nat) : Nat :=
  match sh with
  | 1 => i / 2
  | 2 => i / 4
  | 3 => 0
  | 4 | 6 => i % 4
  | _ => i
/-- Output column of a cell, which is also its weight column. -/
def cellCol (sh i j : Nat) : Nat :=
  match sh with
  | 1 => 16 * (i % 2) + j
  | 2 => 16 * (i % 4) + j
  | 3 => 16 * i + j
  | 5 | 6 => j % 8
  | _ => j
/-- The cell takes the high half of the K range (4x16K2). -/
def cellHigh (sh i : Nat) : Bool := decide (sh = 4) && decide (4 ≤ i)
/-- Store row that a cell row reads (R258). -/
def cellStore (sh i : Nat) : Nat :=
  match sh with
  | 1 => i / 2
  | 2 => i / 4
  | 3 => 0
  | _ => i

/-- Store row of input row `r` of a slot (R258). -/
def inStore (sh slot r : Nat) : Nat := if sh = 6 then 4 * (slot / 2) + r else r
/-- Key of stationary column `k`, part `part`, in store row `row` (R258). -/
def storeKey (sh slot row k part : Nat) (ty : ETy) : Nat :=
  128 * row + (if sh = 5 then 64 * slot else if sh = 6 then 64 * (slot % 2) else 0) + (if ty = .fp32 then 2 * k + part else k)
/-- Key of C (`mag` 0) or C⁺ (`mag` 1) of a block (R314). -/
def chkKey (part mag g h k : Nat) : Nat := ((2 * part + mag) * 4 + (2 * g + h)) * 128 + k

/-- Store rows of the stationary set of block row `g`, in ascending input row (R313). -/
def statSet (sh g : Nat) : List Nat :=
  match sh with
  | 1 => [2 * g, 2 * g + 1]
  | 2 => [g]
  | 3 => [0]
  | _ => (List.range 4).map (4 * g + ·)
/-- Weight columns of the weight set of column segment (g, j), in ascending output column (R313). -/
def weightSet (sh g j : Nat) : List Nat :=
  match sh with
  | 1 => [j, 16 + j]
  | 2 => (List.range 4).map (fun m => 16 * m + j)
  | 3 => (List.range 4).map (fun m => 16 * (4 * g + m) + j)
  | _ => [cellCol sh (4 * g) j]

/-- Section numbers (R312). -/
def colSec (g j : Nat) : Nat := 16 * g + j
def rowSec (i h : Nat) : Nat := 32 + 2 * i + h
def cornerSec (g h : Nat) : Nat := 48 + 2 * g + h

/-! ## Sums of the checksum path (R316, R317) -/

/-- The integer of an exact integer value. -/
def FV.int : FV → Int
  | .fin s m e => toInt .rtz s m e
  | _ => 0

/-- A value modulo 2^32 (R316, R317). -/
def FV.mod32 (v : FV) : FV := .ofInt (v.int % 2 ^ 32)

/-- One addition of the checksum path: exact in the integer path. -/
def chkAdd (int : Bool) (mode : RMode) (a b : FV) : FV := if int then FV.add a b else chk32 mode (FV.add a b)
def chkSum (int : Bool) (mode : RMode) (l : List FV) : FV := l.foldl (chkAdd int mode) .zero

/-- The update v := v + x × y of a value accumulator. -/
def chkStep (int : Bool) (v x y : FV) : FV :=
  if int then (FV.add v (FV.mul x y)).mod32 else chk32 .rne (FV.add v (chk32 .rne (FV.mul x y)))
/-- The update m := m + x × y of a magnitude accumulator. -/
def magStep (m x y : FV) : FV := chk32 .up (FV.add m (chk32 .up (FV.mul x y)))

/-! ## Tallies and failures -/

/-- Adds counts to an array's core counters (R211, R482). -/
def State.countArr (s : State) (a : Nat) (c : Counts) : State :=
  (((((s.count (8 * a) c.flushi).count (8 * a + 1) c.flusho).count (8 * a + 2) c.satc).count (8 * a + 3) c.nanc).count
    (8 * a + 4) c.chkskip).count (8 * a + 5) c.chkfail

/-- Counts for a pass: the array's counters and its MSTREAM's tallies (R211 to R213). -/
def State.countPass (s : State) (a sid : Nat) (c : Counts) : State :=
  (s.countArr a c).modArr a (fun x =>
    { x with streams := x.streams.map (fun m => if m.id = sid then { m with cnt := m.cnt.plus c } else m) })

/-- Writes back a pass; a pass of a reset thread that is done is forgotten. -/
def Arr.setPass (x : Arr) (p : Pass) : Arr :=
  { x with passes := (x.passes.map (fun q => if q.id = p.id then p else q)).filter (fun q => !(q.orphan && decide (q.phase = .done))) }

/-- No further pass of an MSTREAM starts (R305). -/
def Arr.discardWaiting (x : Arr) (sid : Nat) : Arr :=
  { x with passes := x.passes.filter (fun q => !(decide (q.sid = sid) && decide (q.phase = .waiting))) }

/-- The chain of a pass becomes void: it ends, its buffer is free, and every pass with START = 0 that its holder has handed off for
the slot and that has not started is discarded, be it of a later chain (R327). -/
def Arr.voidChain (x : Arr) (a : Nat) (p : Pass) : Arr :=
  let lost := x.passes.filter (fun q =>
    decide (q.tid = p.tid) && decide (q.slot = p.slot) && !bit (q.desc.getD 0 0) 6 && decide (q.phase = .waiting))
  let x := lost.foldl (fun x q => (x.failStream q.sid q.p (passItem a q 6 0 false)).discardWaiting q.sid) x
  { x with
    chains := x.chains.filter (fun e => e.2.id ≠ p.chain)
    chainBufs := x.chainBufs.filter (fun e => e.2.chain ≠ p.chain) }

/-- A pass fails with an item: it writes nothing, its MSTREAM starts no further pass, its chain is void (R305, R327). -/
def State.failPass (s : State) (a : Nat) (p : Pass) (it : Item) : State :=
  s.modArr a (fun x =>
    let x := ((x.setPass { p with phase := .done }).failStream p.sid p.p it).discardWaiting p.sid
    let x := { x with writeQ := x.writeQ.filter (· ≠ p.id) }
    if p.inChain then x.voidChain a p else x)

/-- A pass that reads a failing word, a void column or a void table (R305, R306). -/
def State.parityPass (s : State) (a : Nat) (p : Pass) (f : Find) : State :=
  s.failPass a p ⟨f.code, f.aux, p.pc, f.faddr, none, false, some (wd p.p, 0)⟩

/-- Marks a tile poisoned when the find is in it (R246). -/
def State.poisonFor (s : State) (tile : Nat) (f : Find) : State := if f.code = fPARITY_REG then s.setPoison tile true else s

/-- The first failing tile word: PARITY_REG of R246. -/
def State.tileFind (s : State) (tile lt i n : Nat) : Option Find :=
  (s.badTile tile i n).map (fun k => ⟨fPARITY_REG, BitVec.ofNat 8 (0x70 + lt), wd k⟩)
/-- The first failing word of a matrix read of local memory: PARITY_LM of R516. -/
def State.memFind (s : State) (addr n : Nat) : Option Find := (s.badIn addr n).map (fun k => ⟨fPARITY_LM, 0x03, wd k⟩)

/-! ## The stationary loader -/

/-- Columns that a job writes: K_L, and K_L / 2 in 4x16K2 (R291). -/
def Job.cols (j : Job) : Nat := if j.shape = 4 then j.kl / 2 else j.kl

def Job.isTable (j : Job) : Bool :=
  match j.kind with
  | .table .. => true
  | _ => false

def Arr.setJob (x : Arr) (j : Job) : Arr := { x with jobs := x.jobs.map (fun q => if q.id = j.id then j else q) }

/-- The runs of a gather (R296). -/
def Job.runList (j : Job) : List (Option (Nat × Nat)) :=
  match j.kind with
  | .gather d => (Conv.of d).runs (shpIn j.shape) j.kl
  | _ => []

/-- The next run to read. -/
def Job.nextRun (j : Job) : Option (Nat × Nat × Nat) :=
  (((j.runList.zip (List.range j.runList.length)).drop j.run).findSome? (fun r => r.1.map (fun x => (r.2, x.1, x.2))))

/-- Index of the tap of column `k` among the taps of the K range. -/
def Conv.tapOf (v : Conv) (k : Nat) : Nat := (v.kstart + k) / v.c - v.kstart / v.c

/-- Whether every run that holds an element of column `k` has been read. -/
def Job.gathered (j : Job) (k : Nat) : Bool :=
  match j.kind with
  | .gather d =>
    match j.nextRun with
    | some (i, _, _) => decide (i ≥ ((Conv.of d).tapOf k + 1) * shpIn j.shape)
    | none => true
  | _ => true

/-- Marks the columns that a job has written void, with the find of the job (R306). -/
def Arr.voidColumns (x : Arr) (slot n : Nat) (f : Find) : Arr :=
  { x with voidCol := (List.range n).foldl (fun m k => Tab.put m (128 * slot + k) f) x.voidCol }

/-- A job's first find (R306). -/
def Arr.jobFind (x : Arr) (j : Job) (f : Option Find) : Arr × Job :=
  match j.find, f with
  | none, some f => (x.voidColumns j.slot j.next f, { j with find := some f })
  | _, _ => (x, j)

/-- RUN_READ: the first gather of the slot with a run left reads its next run (R294, R296). -/
def execRunRead (a : ArrNo) (p : Slot) (s : State) : Out :=
  let x := s.arr a
  .next (if ¬ s.flows then s
    else match x.jobs.find? (fun j => decide (j.slot = p.val) && !j.done && j.nextRun.isSome) with
      | none => s
      | some j =>
        match j.nextRun, j.kind with
        | some (i, addr, n), .gather d =>
          let v := Conv.of d
          let rows := shpIn j.shape
          let (tap, c0, c1) := (v.taps j.kl).getD (i / rows) (0, 0, 0)
          let px := (v.pixel (i % rows) tap).getD 0
          let els := (List.range (c1 + 1 - c0)).map (fun o =>
            (tap * v.c + c0 + o - v.kstart, v.ty.extract (fun w => (s.mget (px + w)).d) (c0 + o)))
          let (x, j) := x.jobFind j (s.memFind addr n)
          let j := { j with run := i + 1, got := els.foldl (fun m e => Tab.put m (128 * (i % rows) + e.1) e.2) j.got }
          s.setArr a (x.setJob j)
        | _, _ => s)

/-- Store positions of a stationary element (R258). -/
def statWidth (ty : ETy) : Nat := if ty = .fp32 then 2 else 1

/-- The columns of a pass's type that share a store position with column `k` of a job's type (R258). -/
def sharedCols (job pass : ETy) (k : Nat) : List Nat :=
  let lo := k * statWidth job / statWidth pass
  let hi := (k * statWidth job + statWidth job - 1) / statWidth pass
  (List.range (hi + 1 - lo)).map (lo + ·)

/-- Whether the front lets a job write column `k`, a set of store positions (R258, R268). -/
def Arr.frontFree (x : Arr) (j : Job) (k : Nat) : Bool :=
  x.passes.all (fun q =>
    decide (q.slot ≠ j.slot) || decide (q.sid > j.id) ||
      (sharedCols j.ty q.stype k).all (fun c =>
        decide (dsSteps q.desc ≤ c) ||
          (match q.phase with
            | .waiting => false
            | .streaming => decide (q.sub + 1 = dsMp q.desc) && decide (q.k ≥ c + 2)
            | _ => true)))

/-- The element bits of column `k`, input row `r`, and the find of its words (R269, R291, R294). -/
def State.jobElem (s : State) (j : Job) (r k : Nat) : Nat × Option Find :=
  match j.kind with
  | .tile phys lt w =>
    let base := r * shWpr w
    let e := j.ty.elemWords k
    (j.ty.extract (fun i => (s.tget phys (base + i)).d) k, s.tileFind phys lt (base + e.1) e.2)
  | _ => (Tab.get 0 j.got (128 * r + k), none)

/-- The parts of a stationary element after the flush and the split, and the flushes counted (R185, R208, R212). -/
def statParts (ty : ETy) (b : Nat) : List FV × Nat :=
  let (v, f) := inVal ty b
  if ty = .fp32 then
    let (hi, lo, f2) := split32 v
    ([hi, lo], b2n f + b2n f2)
  else ([v], b2n f)

/-- Writes a column's parts and its checksum values (R269, R314). -/
def Arr.writeColumn (x : Arr) (j : Job) (k : Nat) (vals : List (List FV)) : Arr :=
  let int := j.ty.isNarrow
  let parts := if j.ty = .fp32 then [0, 1] else [0]
  let rows := List.range vals.length
  let el (part r : Nat) : FV := (vals.getD r []).getD part .zero
  let store := parts.foldl (fun m part =>
    rows.foldl (fun m r => Tab.put m (storeKey j.shape j.slot (inStore j.shape j.slot r) k part j.ty) (el part r)) m) x.store
  let chk := parts.foldl (fun m part =>
    (regBlocks j.shape j.slot).foldl (fun m b =>
      let set := (statSet j.shape b.1).map (fun row => el part (if j.shape = 6 then row % 4 else row))
      let m := Tab.put m (chkKey part 0 b.1 b.2 k) (chkSum int .rne set)
      Tab.put m (chkKey part 1 b.1 b.2 k) (chkSum int .up (set.map FV.abs))) m) x.chkStore
  { x with store := store, chkStore := chk }

/-- One fill step of a job. -/
def State.fill (s : State) (a : Nat) (j : Job) : State :=
  let k := j.next
  let els := (List.range (shpIn j.shape)).map (fun r => s.jobElem j r k)
  let f := els.findSome? (·.2)
  let parts := els.map (fun e => statParts j.ty e.1)
  let flushed := parts.foldl (fun n e => n + e.2) 0
  let s := match f, j.kind with
    | some f, .tile phys _ _ => s.poisonFor phys f
    | _, _ => s
  let s := s.countArr a (Counts.flushIn flushed)
  s.modArr a (fun x =>
    let (x, j) := x.jobFind j f
    let x := x.writeColumn j k (parts.map (·.1))
    let x := { x with voidCol := match j.find with
      | some f => Tab.put x.voidCol (128 * j.slot + k) f
      | none => Tab.del x.voidCol (128 * j.slot + k) }
    { x.setJob { j with next := k + 1, cnt := j.cnt.plus (Counts.flushIn flushed), done := decide (k + 1 ≥ j.cols) } with
      fillPtr := (j.slot + 1) % 4 })

/-- The slots in rotation from a pointer (R292). -/
def rotate4 (p : Nat) : List Nat := (List.range 4).map (fun i => (p + i) % 4)

/-- FILL_STEP: one fill step of the next slot in rotation that has one waiting (R268, R292, R296). -/
def execFillStep (a : ArrNo) (s : State) : Out :=
  let x := s.arr a
  .next (if ¬ s.flows then s
    else match (rotate4 x.fillPtr).findSome? (fun slot =>
        (x.jobs.find? (fun j => decide (j.slot = slot) && !j.done && !j.isTable)).bind (fun j =>
          if x.frontFree j j.next && j.gathered j.next then some j else none)) with
      | none => s
      | some j => s.fill a j)

/-- Retires a job: its tallies, then its completion fault (R97, R287, R306). -/
def State.retireJob (s : State) (a : Nat) (j : Job) (f : Option Find) : State :=
  let s := s.modArr a (fun x => { x with jobs := x.jobs.filter (fun q => q.id ≠ j.id) })
  if ¬ s.hasOp j.tid j.id then s
  else
    let s := s.modThr j.tid (fun th => th.setTallies s.cycle j.id j.cnt)
    (match f with
      | some f => s.complete j.tid j.id (item f.code f.aux j.pc f.faddr)
      | none => s).retire j.tid j.id []

/-- MSTAT_RETIRE. -/
def execMstatRetire (a : ArrNo) (p : Slot) (s : State) : Out :=
  .next (if ¬ s.flows then s
    else match (s.arr a).jobs.find? (fun j => decide (j.slot = p.val) && j.done && !j.isTable) with
      | none => s
      | some j => s.retireJob a j j.find)

/-- TABLE_WRITE: the table is written once every earlier pass of the slot has applied its last weight row, and the MTAB
retires (R304). -/
def execTableWrite (a : ArrNo) (p : Slot) (s : State) : Out :=
  let x := s.arr a
  .next (if ¬ s.flows then s
    else match x.jobs.find? (fun j => decide (j.slot = p.val) && j.isTable) with
      | none => s
      | some j =>
        match j.kind with
        | .table phys lt _ =>
          if j.voided then s.retireJob a j none
          else if x.passes.any (fun q =>
              decide (q.slot = p.val) && decide (q.sid < j.id) && (decide (q.phase = .waiting) || decide (q.phase = .streaming))) then s
          else
            let f := s.tileFind phys lt 0 16
            let es := (List.range 16).map (fun i => (s.tget phys i).d)
            let s := match f with
              | some f => s.poisonFor phys f
              | none => s
            let s := s.modArr a (fun x =>
              let t := Tab.get ⟨none, .fp16, [], none⟩ x.tabs p.val
              { x with tabs := Tab.put x.tabs p.val { t with entries := es, void := f } })
            s.retireJob a j f
        | _ => s)

/-! ## Starting passes (R265, R271, R278) -/

/-- A buffer of the slot that no pass and no chain holds (R261, R265). -/
def Arr.freeBuf (x : Arr) (slot : Nat) : Option Nat :=
  [0, 1].find? (fun b =>
    !(x.passes.any (fun q => decide (q.slot = slot) && decide (q.buf = b) && (decide (q.phase = .streaming) || decide (q.phase = .draining)))) &&
    !((Tab.find x.chainBufs slot).map (·.buf) == some b))

/-- The buffer in which a pass would run, when it can start. -/
def Arr.startBuf (x : Arr) (p : Pass) : Option Nat :=
  if x.passes.any (fun q => decide (q.slot = p.slot) && decide (q.phase = .streaming)) then none
  else if dsStart p.desc then x.freeBuf p.slot
  else (Tab.find x.chainBufs p.slot).map (·.buf)

/-- The pass is ready (R271). -/
def Arr.readyPass (x : Arr) (p : Pass) : Bool :=
  match (x.jobs.filter (fun j => decide (j.slot = p.slot) && !j.isTable && decide (j.id < p.sid))).getLast? with
  | none => true
  | some j => x.passes.all (fun q => decide (q.slot ≠ p.slot) || decide (q.sid > j.id) || decide (q.phase ≠ .waiting))

/-- The first waiting pass of a thread on a slot, when it is ready and can start. -/
def Arr.candidate (x : Arr) (slot t : Nat) : Option (Pass × Nat) :=
  (x.passes.find? (fun p => decide (p.slot = slot) && decide (p.tid = t) && decide (p.phase = .waiting))).bind (fun p =>
    if x.readyPass p then (x.startBuf p).map (fun b => (p, b)) else none)

/-- Clears the region of a slot in one buffer: accumulators, SAT flags and sections (R264, R274, R312). -/
def Arr.clearRegion (x : Arr) (sh slot buf : Nat) : Arr :=
  let keys := (regRows sh slot).flatMap (fun i => (regCols sh slot).map (fun j => 128 * buf + 16 * i + j))
  let secs := (regBlocks sh slot).flatMap (fun b =>
    ((List.range 8).map (fun j => colSec b.1 (8 * b.2 + j))) ++ ((List.range 4).map (fun i => rowSec (4 * b.1 + i) b.2)) ++
      [cornerSec b.1 b.2])
  { x with
    acc := x.acc.filter (fun e => !keys.contains e.1)
    sat := x.sat.filter (fun e => !keys.contains e.1)
    secV := x.secV.filter (fun e => !(secs.map (64 * buf + ·)).contains e.1)
    secM := x.secM.filter (fun e => !(secs.map (64 * buf + ·)).contains e.1) }

/-- A pass starts in a buffer (R264, R265, R331); the started passes stand in the order of their starts, behind the waiting
ones of their hand-offs. -/
def Arr.startPass (x : Arr) (p : Pass) (buf : Nat) : Arr :=
  let x := if dsStart p.desc then x.clearRegion (dsShape p.desc) p.slot buf else x
  let expd := decide (dsExp p.desc ≠ 0) || (!dsStart p.desc && ((Tab.find x.chainBufs p.slot).map (·.expd)).getD false)
  let x := { x with
    passCount := x.passCount + 1
    chainBufs :=
      if ¬ p.inChain then x.chainBufs
      else if dsEnd p.desc then Tab.del x.chainBufs p.slot
      else Tab.put x.chainBufs p.slot ⟨buf, p.chain, p.tid, expd⟩ }
  { x with passes := x.passes.filter (fun q => q.id ≠ p.id) ++
      [{ p with
        phase := .streaming, buf := buf, sub := 0, k := 0, lanes := laneSeeds p.seed p.p, shadow := laneSeeds p.seed p.p, expd := expd }] }

/-- PASS_START: the first entry in rotation whose first pass is ready and can start (R278). -/
def execPassStart (a : ArrNo) (p : Slot) (s : State) : Out :=
  let x := s.arr a
  let es := slotEntries s.cfg a p.val
  let ptr := Tab.get 0 x.ptr p.val
  let order := es.filter (fun e => decide (ptr ≤ e)) ++ es.filter (fun e => decide (e < ptr))
  .next (if ¬ s.runs ∨ x.testing.isSome ∨ x.felled then s
    else match order.findSome? (fun e => (x.candidate p.val (entTid s.cfg a e)).map (fun c => (e, c))) with
      | none => s
      | some (e, q, b) =>
        s.setArr a { x.startPass q b with ptr := Tab.put x.ptr p.val (((es.filter (fun i => decide (e < i))).head?).getD 0) })

/-! ## Weights (R202 to R209, R299, R515) -/

/-- The pass is in the integer path (R179). -/
def Pass.int (p : Pass) : Bool := p.stype.isNarrow

/-- Weight rows of a step: the row of the low half, and in 4x16K2 that of the high half (R257). -/
def Pass.stepRows (p : Pass) (k : Nat) : List Nat := if dsShape p.desc = 4 then [k, dsK p.desc / 2 + k] else [k]

/-- Blocks whose records a step needs and that have not been read (R203, R515). -/
def Pass.newBlocks (p : Pass) (k : Nat) : List Nat :=
  if ¬ dsRecs p.desc ∨ k ≥ dsSteps p.desc then []
  else ((p.stepRows k).map (· / 32)).filter (fun b => (Tab.find p.recs (256 * b)).isNone)

/-- Reads the records of blocks; a failing word is a find (R305, R516). -/
def State.readRecs (s : State) (p : Pass) : List Nat → Pass × Option Find
  | [] => (p, none)
  | b :: bs =>
    let n := dsRecWords p.desc
    let addr := (dsW p.desc 6).toNat + p.p * (dsW p.desc 7).toNat + b * n
    match s.memFind addr n with
    | some f => (p, some f)
    | none =>
      let ws := (s.mwords addr n).map (·.d)
      s.readRecs { p with recs := (ws.zip (List.range n)).foldl (fun m e => Tab.put m (256 * b + e.2) e.1) p.recs } bs

/-- The words of weight row `r` of the pass, and the find of the first failing one. -/
def State.weightWords (s : State) (p : Pass) (r : Nat) : List Word × Option Find :=
  let n := dsRowWords p.desc
  let base := (dsW p.desc 3).toNat + p.p * (dsW p.desc 5).toNat
  if dsWsrc p.desc then
    let i := (base + r) * shWpr p.wshape
    ((List.range n).map (fun w => (s.tget p.wtile (i + w)).d), s.tileFind p.wtile (dsWtile p.desc) i n)
  else
    let a := base + r * (dsW p.desc 4).toNat
    ((s.mwords a n).map (·.d), s.memFind a n)

/-- Zero point of a column in the block of row `r` (R202, R203). -/
def Pass.zero (p : Pass) (r c : Nat) : Int :=
  if dsZw p.desc = 0 then 0
  else
    let wt := dsWty p.desc
    let signed := decide (wt = .int8) || decide (wt = .int4)
    let zt : ETy := if dsZw p.desc = 1 then (if signed then .int4 else .uint4) else (if signed then .int8 else .uint8)
    intVal zt (zt.extract (fun i => Tab.get 0 p.recs (256 * (r / 32) + shpC (dsShape p.desc) + i)) c)

/-- Fine scale of a column in the block of row `r`, flushed (R185, R203). -/
def Pass.scale (p : Pass) (r c : Nat) : FV × Bool := inVal .fp16 (Tab.get 0 p.recs (256 * (r / 32) + c)).toNat

/-- The weight operand of column `c` of row `r` in the pass's sub-pass, with its counts (R185, R204 to R209, R212). -/
def Pass.weight (p : Pass) (tab : List Word) (r c raw : Nat) : FV × Counts :=
  let wt := dsWty p.desc
  if p.int then (.ofInt (intVal wt raw - (if dsExp p.desc = 2 then p.zero r c else 0)), Counts.zero)
  else if dsExp p.desc = 1 then
    let (v, f) := inVal p.stype (tab.getD (raw % 16) 0).toNat
    if dsScl p.desc then
      let (sc, f2) := p.scale r c
      let e := expandRound p.stype (FV.mul v sc)
      (e.1, e.2.plus (Counts.flushIn (b2n f + b2n f2)))
    else (v, Counts.flushIn (b2n f))
  else if dsExp p.desc = 2 then
    let (sc, f) := p.scale r c
    let e := expandRound p.stype (FV.mul (.ofInt (intVal wt raw - p.zero r c)) sc)
    (e.1, e.2.plus (Counts.flushIn (b2n f)))
  else
    let (v, f) := inVal wt raw
    if wt = .fp32 then
      let (hi, lo, f2) := split32 v
      if p.sub = 2 then (lo, Counts.flushIn (b2n f + b2n f2)) else (hi, Counts.flushIn (b2n f))
    else (v, Counts.flushIn (b2n f))

/-- The weight operands of row `r`, with their counts. -/
def Pass.weights (p : Pass) (tab : List Word) (r : Nat) (ws : List Word) : List FV × Counts :=
  let l := (List.range (shpC (dsShape p.desc))).map (fun c => p.weight tab r c ((dsWty p.desc).extract (fun i => ws.getD i 0) c))
  (l.map (·.1), l.foldl (fun c e => c.plus e.2) Counts.zero)

/-! ## One step of the cells and of the sections (R181 to R184, R257, R275, R315, R316) -/

/-- The part of the stationary element that the sub-pass applies (R209). -/
def Pass.part (p : Pass) : Nat := if p.sub = 1 then 1 else 0

/-- One cell: its new accumulator and whether its SAT flag becomes set. -/
def cellStep (int : Bool) (acc : Word32) (a w : FV) : Word32 × Bool :=
  if int then
    let v := acc.toInt + a.int * w.int
    let c := min (max v (-(2 ^ 31))) (2 ^ 31 - 1)
    (BitVec.ofInt 32 c, decide (c ≠ v))
  else if (a.isZero && w.isFin) || (w.isZero && a.isFin) then (acc, false)
  else (enc32 (rne32 (FV.add (dec32 acc) (rne32 (FV.mul a w)))), false)

/-- The data cells of the region; the count is of SAT flags that become set. -/
def Arr.stepCells (x : Arr) (p : Pass) (lo hi : List FV) : Arr × Nat :=
  let sh := dsShape p.desc
  (regRows sh p.slot).foldl (fun r i =>
    let a := Tab.get .zero x.store (storeKey sh p.slot (cellStore sh i) p.k p.part p.stype)
    (regCols sh p.slot).foldl (fun (r : Arr × Nat) j =>
      let key := 128 * p.buf + 16 * i + j
      let w := (if cellHigh sh i then hi else lo).getD (cellCol sh i j) .zero
      let (v, sat) := cellStep p.int (Tab.get 0 r.1.acc key) a w
      let y := { r.1 with acc := Tab.set 0 r.1.acc key v }
      if sat && !(Tab.get false y.sat key) then ({ y with sat := Tab.set false y.sat key true }, r.2 + 1) else (y, r.2)) r) (x, 0)

/-- Adds to a section of the pass's buffer. -/
def Arr.addSec (x : Arr) (p : Pass) (sec : Nat) (a w am wm : FV) : Arr :=
  let key := 64 * p.buf + sec
  let x := { x with secV := Tab.set .zero x.secV key (chkStep p.int (Tab.get .zero x.secV key) a w) }
  if p.int then x else { x with secM := Tab.set .zero x.secM key (magStep (Tab.get .zero x.secM key) am wm) }

/-- The checksum sections of the region. -/
def Arr.stepSections (x : Arr) (p : Pass) (lo hi : List FV) : Arr :=
  let sh := dsShape p.desc
  let int := p.int
  (regBlocks sh p.slot).foldl (fun x b =>
    let (g, h) := b
    let row := if cellHigh sh (4 * g) then hi else lo
    let c := Tab.get .zero x.chkStore (chkKey p.part 0 g h p.k)
    let cm := Tab.get .zero x.chkStore (chkKey p.part 1 g h p.k)
    let cols := (List.range 8).map (8 * h + ·)
    let set (j : Nat) : List FV := (weightSet sh g j).map (fun q => row.getD q .zero)
    let ts := cols.map (fun j => (j, chkSum int .rne (set j), chkSum int .up ((set j).map FV.abs)))
    let x := ts.foldl (fun x t => x.addSec p (colSec g t.1) c t.2.1 cm t.2.2) x
    let x := ((List.range 4).map (4 * g + ·)).foldl (fun x i =>
      let a := Tab.get .zero x.store (storeKey sh p.slot (cellStore sh i) p.k p.part p.stype)
      let ws := cols.map (fun j => row.getD (cellCol sh i j) .zero)
      x.addSec p (rowSec i h) a (chkSum int .rne ws) a.abs (chkSum int .up (ws.map FV.abs))) x
    x.addSec p (cornerSec g h) c (chkSum int .rne (ts.map (·.2.1))) cm (chkSum int .up (ts.map (·.2.2)))) x

/-- The pass after its step: the next step, the next sub-pass, or the end of the stream (R261, R264, R266, R274). -/
def Pass.advance (p : Pass) : Pass :=
  if p.k + 1 < dsSteps p.desc then { p with k := p.k + 1 }
  else if p.sub + 1 < dsMp p.desc then { p with k := 0, sub := p.sub + 1 }
  else if ¬ dsEnd p.desc ∨ (p.orphan ∧ p.inChain) then { p with phase := .done }
  else { p with phase := .draining, row := 0 }

/-- Applies a step with the weights read. -/
def State.applyStep (s : State) (a : Nat) (p : Pass) (lo hi : List FV) (c : Counts) : State :=
  let (x, sat) := (s.arr a).stepCells p lo hi
  let s := (s.setArr a (x.stepSections p lo hi)).countPass a p.sid { c with satc := c.satc + sat }
  let (p, f) := if dsWsrc p.desc then s.readRecs p (p.newBlocks (p.k + 1)) else (p, none)
  match f with
  | some f => s.parityPass a p f
  | none => s.modArr a (fun x => x.setPass p.advance)

/-- The step of a streaming pass whose stationary column and table are there. -/
def State.weightStep (s : State) (a : Nat) (p : Pass) : State :=
  let x := s.arr a
  let tab := Tab.get ⟨none, .fp16, [], none⟩ x.tabs p.slot
  match (match Tab.find x.voidCol (128 * p.slot + p.k) with
      | some f => some f
      | none => if dsExp p.desc = 1 then tab.void else none) with
  | some f => s.parityPass a p f
  | none =>
    match s.readRecs p (p.newBlocks p.k) with
    | (p, some f) => s.parityPass a p f
    | (p, none) =>
      let rows := (p.stepRows p.k).map (fun r => (r, s.weightWords p r))
      match rows.findSome? (fun r => r.2.2) with
      | some f => (s.poisonFor p.wtile f).parityPass a p f
      | none =>
        let ops := rows.map (fun r => p.weights tab.entries r.1 r.2.1)
        s.applyStep a p ((ops.map (·.1)).getD 0 []) ((ops.map (·.1)).getD 1 []) (ops.foldl (fun c e => c.plus e.2) Counts.zero)

/-- WEIGHT_STEP: waits for the stationary column (R270) and, in the first step, for the table (R304). -/
def execWeightStep (a : ArrNo) (p : Slot) (s : State) : Out :=
  let x := s.arr a
  .next (if ¬ s.flows then s
    else match x.passes.find? (fun q => decide (q.slot = p.val) && decide (q.phase = .streaming)) with
      | none => s
      | some q =>
        if x.jobs.any (fun j => decide (j.slot = p.val) && decide (j.id < q.sid) && !j.done &&
            (if j.isTable then decide (dsExp q.desc = 1) else decide (j.next ≤ q.k))) then s
        else s.weightStep a q)

/-! ## The drain: conversion and checker sums (R194, R199, R261, R263, R317 to R320) -/

/-- The coarse scale (R194, R298). -/
def dScale (d : List Word) : FV := if dsCscale d = 0 then .fin false 1 0 else dec32 (dsCscale d)

/-- The drained value of a cell: of the two cells of 4x16K2 the combined one; with its SAT flag and whether the combination
clamped (R274). -/
def Arr.drained (x : Arr) (p : Pass) (i j : Nat) : Word32 × Bool × Bool :=
  let key (i : Nat) : Nat := 128 * p.buf + 16 * i + j
  let v (i : Nat) : Word32 := Tab.get 0 x.acc (key i)
  let f (i : Nat) : Bool := Tab.get false x.sat (key i)
  if dsShape p.desc ≠ 4 then (v i, f i, false)
  else
    let l := i % 4
    let h := l + 4
    if p.int then
      let n := (v l).toInt + (v h).toInt
      let c := min (max n (-(2 ^ 31))) (2 ^ 31 - 1)
      (BitVec.ofInt 32 c, f l || f h || decide (c ≠ n), decide (c ≠ n) && !f l && !f h)
    else (enc32 (rne32 (FV.add (dec32 (v l)) (dec32 (v h)))), false, false)

/-- One output element: the bits, or the INT32 value itself for a merge (R194, R206). DESIGN CHOICE (log entry 49): R182 speaks of
products and sums inside a cell; its uncounted flush and overflow are applied to the rne32 of the scaling here and of t in
`Pass.merged` as well. -/
def Pass.convert (p : Pass) (v : Word32) (rnd : Nat) : Nat × Counts :=
  let d := p.desc
  let mode := RMode.ofCode (dsRmode d) rnd
  let satf := bit p.mchk 0
  let c := dScale d
  if dsOkind d = 2 then (v.toNat, Counts.zero)
  else if p.int then
    if (dsOty d).isFloat then convOut (dsOty d) mode satf (rne32 (FV.mul (rne32 (.ofInt v.toInt)) c))
    else convOut (dsOty d) mode satf (.ofInt v.toInt)
  else convOut (dsOty d) mode satf (rne32 (FV.mul (dec32 v) c))

/-- Converts cell row `i` of the region; each lane's result is compared with that of its shadow lane, which steps its own state
(R196, R199, R324). -/
def Arr.convertRow (x : Arr) (p : Pass) (i : Nat) : Pass :=
  let sh := dsShape p.desc
  (regCols sh p.slot).foldl (fun (p : Pass) j =>
    let v := (x.drained p i j).1
    let pos := if sh ≥ 5 then j else cellCol sh i j
    let (lanes, rnd) := stepLane p.lanes pos
    let (shadow, rnd') := stepLane p.shadow pos
    let (b, c) := p.convert v rnd
    { p with
      lanes := lanes, shadow := shadow, differs := p.differs || decide (b ≠ (p.convert v rnd').1)
      out := Tab.put p.out (128 * cellRow sh i + cellCol sh i j) b
      outCnt := Tab.put p.outCnt (128 * cellRow sh i + cellCol sh i j) c }) p

/-- The SAT flags that the combination of 4x16K2 sets in cell row `i`, counted whatever the verdict (R212, R274). -/
def Arr.rowClamps (x : Arr) (p : Pass) (i : Nat) : Nat :=
  ((regCols (dsShape p.desc) p.slot).filter (fun j => (x.drained p i j).2.2)).length

/-- |x| ≤ |y| on exact values. -/
def within (x y : FV) : Bool :=
  match FV.cmp x.abs y with
  | some .gt => false
  | none => false
  | _ => true

/-- Compares a sum with a checksum: none when skipped, else whether they agree (R318, R319). -/
def agree (int : Bool) (e : Nat) (skip : Bool) (sum v m : FV) : Option Bool :=
  if skip then none
  else if int then some (decide (sum.mod32 = v.mod32))
  else if !(sum.isFin && v.isFin && m.isFin) then (if v.isFin && m.isFin then some false else none)
  else some (within (FV.add sum v.neg) (FV.add (FV.mul m (.fin false 1 (-(e : Int)))) (.fin false 1 (-96))))

/-- The checker's findings over the region of a pass (R317 to R320). -/
def Arr.check (x : Arr) (p : Pass) : Seen :=
  let sh := dsShape p.desc
  let int := p.int
  let e := fld p.mchk 5 1
  let val (i j : Nat) : FV × Bool :=
    let (v, f, _) := x.drained p i j
    (if int then .ofInt v.toInt else dec32 v, f)
  let v (sec : Nat) : FV := Tab.get .zero x.secV (64 * p.buf + sec)
  let m (sec : Nat) : FV := Tab.get .zero x.secM (64 * p.buf + sec)
  let addV (l : List FV) : FV := chkSum int .rne l
  let addM (l : List FV) : FV := chkSum false .up l
  let seg (cells : List (FV × Bool)) (secs : List Nat) : Option Bool :=
    let vv := addV (secs.map v)
    let mm := addM (secs.map m)
    let skip := if int then cells.any (·.2) else cells.any (fun c => !c.1.isFin) || !vv.isFin || !mm.isFin
    agree int e skip (addV (cells.map (·.1))) vv mm
  let blocks := regBlocks sh p.slot
  let gs := if sh = 4 then [0] else (blocks.map (·.1)).eraseDups
  let rows := if sh = 4 then List.range 4 else regRows sh p.slot
  let cols : List (Nat × List (Nat × Nat) × Option Bool) := gs.flatMap (fun g =>
    (regCols sh p.slot).map (fun j =>
      (colSec g j, (if sh = 4 then [(0, j / 8), (1, j / 8)] else [(g, j / 8)]),
        seg ((List.range 4).map (fun i => val (4 * g + i) j)) (if sh = 4 then [colSec 0 j, colSec 1 j] else [colSec g j]))))
  let rws : List (Nat × List (Nat × Nat) × Option Bool) := rows.flatMap (fun i =>
    ((blocks.map (·.2)).eraseDups).map (fun h =>
      (2 * i + h, (if sh = 4 then [(0, h), (1, h)] else [(i / 4, h)]),
        seg ((List.range 8).map (fun j => val i (8 * h + j))) (if sh = 4 then [rowSec i h, rowSec (i + 4) h] else [rowSec i h]))))
  let corners : List ((Nat × Nat) × List (Option Bool)) := blocks.map (fun b =>
    let cs := addV ((List.range 8).map (fun j => v (colSec b.1 (8 * b.2 + j))))
    let rs := addV ((List.range 4).map (fun i => v (rowSec (4 * b.1 + i) b.2)))
    let cv := v (cornerSec b.1 b.2)
    let cm := m (cornerSec b.1 b.2)
    let skip := !int && !(cv.isFin && cm.isFin && cs.isFin && rs.isFin)
    (b, [agree int e skip cs cv cm, agree int e skip rs cv cm]))
  let bad (l : List (Nat × List (Nat × Nat) × Option Bool)) : List (Nat × List (Nat × Nat) × Option Bool) :=
    l.filter (fun q => q.2.2 == some false)
  let badCorners := (corners.filter (fun c => c.2.contains (some false))).map (·.1)
  let failing := ((bad cols) ++ (bad rws)).flatMap (fun q => q.2.1)
  { skips := (cols.filter (fun q => q.2.2.isNone)).length + (rws.filter (fun q => q.2.2.isNone)).length +
      (corners.filter (fun c => c.2.contains none)).length
    col := ((bad cols).head?).map (·.1)
    row := ((bad rws).head?).map (·.1)
    corner := decide (badCorners ≠ [])
    cornerOfFail := badCorners.any failing.contains }

/-- DRAIN_ROW_LEAVE: one cell row leaves the buffer; after the last the buffer is free and the checker's findings stand (R261,
R263). -/
def execDrainRowLeave (a : ArrNo) (p : Slot) (s : State) : Out :=
  let x := s.arr a
  .next (if ¬ s.flows then s
    else match x.passes.find? (fun q => decide (q.slot = p.val) && decide (q.phase = .draining)) with
      | none => s
      | some q =>
        let sh := dsShape q.desc
        if (x.passes.filter (fun r => decide (r.slot = p.val) && (decide (r.phase = .verdict) || decide (r.phase = .writing)))).length ≥ 2
        then s
        else
          let i := (regRows sh p.val).getD q.row 0
          let skip := decide (sh = 4) && decide (i < 4)
          let clamps := if skip then 0 else x.rowClamps q i
          let q := if skip then q else x.convertRow q i
          let q := { q with row := q.row + 1 }
          let q := if q.row = shpRc sh then
              { q with phase := .verdict, seen := x.check q, vAt := s.cycle + shpR sh + shpC sh - shpRc sh } else q
          (s.setArr a (x.setPass q)).countPass a q.sid { Counts.zero with satc := clamps })

/-! ## The verdict (R326 to R332) -/

/-- KIND of a check failure (R326); 0 when the pass passes. An expansion mismatch of a FIRST or CONT pass shows at the verdict of the
chain's LAST pass (R325, R335). -/
def Pass.kind (p : Pass) (laneDiffers expanderDiffers : Bool) : Nat :=
  if p.seen.col.isSome ∧ p.seen.row.isSome then 1
  else if p.seen.col.isSome then 2
  else if p.seen.row.isSome then 3
  else if laneDiffers ∨ p.differs then 4
  else if expanderDiffers ∧ p.expd then 5
  else 0

/-- A mismatch: the array is felled when fewer than 2^20 passes have started since its previous one (R331). Failures of other
slots in the same cycle are the same mismatch. -/
def State.mismatch (s : State) (a slot : Nat) : State :=
  let x := s.arr a
  let here := (x.passCount, s.cycle, slot)
  match x.lastMismatch with
  | none => s.setArr a { x with lastMismatch := some here }
  | some (n, c, sl) =>
    if c = s.cycle ∧ sl ≠ slot then s
    else
      let s := s.setArr a { x with lastMismatch := some here }
      if x.passCount - n < 2 ^ 20 then s.fellArray a slot else s

/-- The FAULT notice of a check (R326, R330). -/
def State.checkNotice (s : State) (a : Nat) (p : Pass) (kind : Nat) (it : Item) (corner : Bool) : State :=
  let seg (o : Option Nat) (i : Nat) : Word := (o.map wd).getD (Config.noSegment i)
  s.faultNotice p.tid it.code it.aux it.fpc it.faddr
    [wd a, wd p.slot, wd kind, wd (b2n corner), seg p.seen.col 0, seg p.seen.row 1]

/-- The pass of a slot whose verdict comes first, in cycle L + R + C: of those of one cycle the older (R261).
DEDUCED (log entry 64): a later pass of another shape can so have its verdict before an earlier one. -/
def Arr.nextVerdict (x : Arr) (slot : Nat) : Option Pass :=
  (x.passes.filter (fun q => decide (q.slot = slot) && decide (q.phase = .verdict))).foldl (fun b q => match b with
    | none => some q
    | some p => if q.vAt < p.vAt then some q else some p) none

/-- PASS_VERDICT. `laneDiffers` and `expanderDiffers` say what the comparisons of R324 and R325 found. -/
def execPassVerdict (a : ArrNo) (p : Slot) (laneDiffers expanderDiffers : Bool) (s : State) : Out :=
  .next (if ¬ s.flows then s
    else match (s.arr a).nextVerdict p.val with
      | none => s
      | some q =>
        let kind := q.kind laneDiffers expanderDiffers
        let corner := if kind = 0 then q.seen.corner else q.seen.cornerOfFail
        let bad := decide (kind ≠ 0) || q.seen.corner
        let s := s.countPass a q.sid { Counts.zero with chkskip := q.seen.skips, chkfail := b2n bad }
        let it := passItem a q kind (b2n corner) false
        let s := if bad then s.checkNotice a q kind it corner else s
        let s :=
          if kind ≠ 0 then s.failPass a q it
          else if q.orphan then s.modArr a (fun x => x.setPass { q with phase := .done })
          else
            s.modArr a (fun x => { x.setPass { q with phase := .writing } with writeQ := x.writeQ ++ [q.id] })
        if bad then s.mismatch a p.val else s)

/-! ## Writing (R206, R262, R289, R299) -/

/-- Words of an output row. -/
def Pass.outWords (p : Pass) : Nat := (dsOty p.desc).wpr (shpC (dsShape p.desc))

/-- The elements of output row `r`. -/
def Pass.outRow (p : Pass) (r : Nat) : List Nat := (List.range (shpC (dsShape p.desc))).map (fun c => Tab.get 0 p.out (128 * r + c))

/-- First word of output row `r` in the destination tile (R299). -/
def Pass.tileAt (p : Pass) (r : Nat) : Nat :=
  let d := p.desc
  (fld (dsW d 8) 12 7 + p.p * fld (dsW d 10) 12 7 + r) * shWpr p.oshape +
    ((dsOty d).elemWords (fld (dsW d 8) 6 0 + p.p * fld (dsW d 10) 6 0)).1

/-- First word of output row `r` in local memory (R299). -/
def Pass.memAt (p : Pass) (r : Nat) : Nat :=
  (dsW p.desc 8).toNat + p.p * (dsW p.desc 10).toNat + r * (dsW p.desc 9).toNat

/-- The merge of one element (R206): the FLUSHO and NANC of out are counted (R186, R188, R212). DESIGN CHOICE (log entry 49): R185
does not list the running tile value, and a subnormal one is used as it is; R212 counts a flushed fine scale for each use in an expansion,
which the scaling of an integer merge is not taken to be: a subnormal one is replaced and not counted. -/
def Pass.merged (p : Pass) (c raw : Nat) (old : Word32) : Word32 × Counts :=
  let sf : FV := if dsExp p.desc = 2 then (p.scale 0 c).1 else .fin false 1 0
  let t := rne32 (FV.mul (rne32 (FV.mul (rne32 (.ofInt (BitVec.ofNat 32 raw).toInt)) sf)) (dScale p.desc))
  let r := toFloat .fp32 .rne false (FV.add (dec32 old) t)
  (BitVec.ofNat 32 r.1, { r.2 with satc := 0 })

/-- Words [lo, hi) of the row that the next access writes, and whether the row ends with it (R253, R262). -/
def Pass.access (p : Pass) : Nat × Nat × Bool :=
  let n := p.outWords
  if dsOkind p.desc = 0 then
    let a := p.memAt p.wr
    let lo := max a (4 * (a / 4 + 8 * p.wc))
    let hi := min (a + n) (4 * (a / 4 + 8 * (p.wc + 1)))
    (lo - a, hi - a, decide (hi = a + n))
  else (32 * p.wc, min n (32 * p.wc + 32), decide (n ≤ 32 * p.wc + 32))

/-- The counts of the elements whose last word an access to words [lo, hi) of the row writes: an output that is withheld is not counted
(R212). -/
def Pass.writtenCnt (p : Pass) (lo hi : Nat) : Counts :=
  (List.range (shpC (dsShape p.desc))).foldl (fun n c =>
    let e := (dsOty p.desc).elemWords c
    if lo < e.1 + e.2 ∧ e.1 + e.2 ≤ hi then n.plus (Tab.get Counts.zero p.outCnt (128 * p.wr + c)) else n) Counts.zero

/-- The pass after an access. -/
def State.wrote (s : State) (a : Nat) (p : Pass) (rowEnd : Bool) : State :=
  if ¬ rowEnd then s.modArr a (fun x => x.setPass { p with wc := p.wc + 1 })
  else if p.wr + 1 < shpR (dsShape p.desc) then s.modArr a (fun x => x.setPass { p with wr := p.wr + 1, wc := 0 })
  else s.modArr a (fun x => { x.setPass { p with phase := .done } with writeQ := x.writeQ.filter (· ≠ p.id) })

/-- The first failing word among all that a merge reads, before it writes any (R305). -/
def State.mergeFind (s : State) (p : Pass) : Option Find :=
  (List.range (shpR (dsShape p.desc))).findSome? (fun r => s.tileFind p.otile (dsOtile p.desc) (p.tileAt r) p.outWords)

/-- One destination access of a pass; a merge looks at every word of its destination before its first. -/
def State.drainWrite (s : State) (a : Nat) (p : Pass) : State :=
  let (lo, hi, rowEnd) := p.access
  let base := p.tileAt p.wr
  if dsOkind p.desc = 2 then
    match (if p.wr = 0 ∧ p.wc = 0 then s.mergeFind p else s.tileFind p.otile (dsOtile p.desc) (base + lo) (hi - lo)) with
    | some f => (s.poisonFor p.otile f).parityPass a p f
    | none =>
      let els := (List.range ((hi - lo) / 2)).map (fun i =>
        let c := lo / 2 + i
        p.merged c (Tab.get 0 p.out (128 * p.wr + c)) (mk32 (s.tget p.otile (base + 2 * c)).d (s.tget p.otile (base + 2 * c + 1)).d))
      let s := s.tsetList p.otile (base + lo) (els.flatMap (fun e => [lo32 e.1, hi32 e.1]))
      (s.countPass a p.sid (els.foldl (fun c e => c.plus e.2) Counts.zero)).wrote a p rowEnd
  else
    let ws := (((dsOty p.desc).pack (p.outRow p.wr)).drop lo).take (hi - lo)
    let s := if dsOkind p.desc = 0 then s.msetList (p.memAt p.wr + lo) ws else s.tsetList p.otile (base + lo) ws
    (s.countPass a p.sid (p.writtenCnt lo hi)).wrote a p rowEnd

/-- DRAIN_WRITE: one access of the oldest verdict's pass; of a thread that has been reset nothing is written (R289, R309). -/
def execDrainWrite (a : ArrNo) (s : State) : Out :=
  let x := s.arr a
  .next (if ¬ s.flows then s
    else match x.writeQ.head?.bind (fun id => x.passes.find? (fun q => q.id = id)) with
      | none => s
      | some p =>
        if p.orphan then s.setArr a { x.setPass { p with phase := .done } with writeQ := x.writeQ.filter (· ≠ p.id) }
        else s.drainWrite a p)

/-! ## MSTREAM_RETIRE (R214, R287, R288, R305, R307) -/

/-- The item as it is delivered: held under PSW.PRECISE the frame repeats the MSTREAM from pass `f`, with MSEED := S, unless the
item is of a void chain (R305, R327). -/
def State.streamFault (s : State) (m : Stream) (f : Nat) (it : Item) : State :=
  let again := (s.thr m.tid).heldAt m.id && it.pc.isNone
  if again then
    (s.modThr m.tid (fun th => th.setMseed m.seed)).complete m.tid m.id { it with pc := some m.pc, mrow := some (wd f, 0x8000) }
  else s.complete m.tid m.id it

/-- Retires a stream whose passes are all done. -/
def State.retireStream (s : State) (a : Nat) (m : Stream) : State :=
  let s := s.modArr a (fun x =>
    { x with streams := x.streams.filter (fun n => n.id ≠ m.id), passes := x.passes.filter (fun p => p.sid ≠ m.id) })
  let s := s.modThr m.tid (fun th => th.setTallies s.cycle m.id m.cnt)
  match m.fault, m.stopAt with
  | none, some idx =>
    (s.dropOp m.tid m.id).modThr m.tid (fun th => ((th.setMrow idx 0x8000).setMseed m.seed).setPc m.pc)
  | f, _ =>
    let s := match f with
      | some (p, it) => s.streamFault m p it
      | none => s
    let s := if bit (dsW m.desc 13) 4 then s.setEv m.tid (fld (dsW m.desc 13) 3 0) else s
    s.retire m.tid m.id []

/-- MSTREAM_RETIRE: the first MSTREAM of the slot all of whose passes are done. -/
def execMstreamRetire (a : ArrNo) (p : Slot) (s : State) : Out :=
  let x := s.arr a
  .next (if ¬ s.flows then s
    else match x.streams.find? (fun m =>
        decide (m.slot = p.val) && x.passes.all (fun q => decide (q.sid ≠ m.id) || decide (q.phase = .done))) with
      | none => s
      | some m => s.retireStream a m)

end Sys2Proof.Machine
end

