-- ==== Sys2Proof/Machine/Flumes.lean ====
section
/-!
DEFINITION. Flumes (file 12): the instructions and their checks, inbound flume packets, the transport of accepted messages,
stall limits and stillness.
-/
namespace Sys2Proof.Machine

/-! ## Checks (R359) -/

/-- Steps 1 to 3 of R359; `dir` is the direction the instruction needs (true: send). -/
def State.endFault (s : State) (t e : Nat) (dir : Option Bool) : Option (BitVec 8 × BitVec 8) :=
  if (s.fend e).st = .unbound then some (fFLUME_UNBOUND, 0x01)
  else if endOwner s.cfg e ≠ t then some (fFLUME_OWNER, BitVec.ofNat 8 e)
  else if dir.isSome ∧ dir ≠ some (endDir s.cfg e) then some (fFLUME_UNBOUND, 0x02)
  else none

/-- Steps 1 to 4 for RECV, RECVC and FDONE. -/
def State.recvFault (s : State) (t e : Nat) : Option (BitVec 8 × BitVec 8) :=
  match s.endFault t e (some false) with
  | some f => some f
  | none => if endTile s.cfg e ∧ ¬ (s.fend e).armed then some (fFLUME_UNBOUND, 0x03) else none

/-- Steps 1 to 4 for RECV: one that waited as its TILE end closed takes FLUME_CLOSED again after ERET, though the end is no longer ARMED
(R374, R377; DEDUCED, log entry 47). -/
def State.recvCheck (s : State) (t e : Nat) : Option (BitVec 8 × BitVec 8) :=
  if (s.fend e).lost ∧ (s.fend e).st = .closed then s.endFault t e (some false) else s.recvFault t e

/-- Step 8: nothing will ever be left to take. -/
def State.recvClosed (s : State) (e : Nat) : Bool :=
  let st := (s.fend e).st
  st == .closed || (st == .peerClosed && !s.leftToTake e)

/-- Steps 6 and 7 for SEND.E and SENDC (`closed` when step 7 applies). A landing that was discarded as the end left OPEN is no empty
landing: SEND.E takes FLUME_CLOSED again after ERET, and SENDC returns 0 (R363, R377; DEDUCED, log entry 47). -/
def State.sendFault (s : State) (t e : Nat) (closed : Bool) : Option (BitVec 8 × BitVec 8) :=
  match s.endFault t e (some true) with
  | some f => some f
  | none =>
    let x := s.fend e
    if x.landing = [] ∧ ¬ x.lost then some (fFLUME_UNBOUND, 0x05)
    else if closed ∧ x.st ≠ .opened then some (fFLUME_CLOSED, BitVec.ofNat 8 e)
    else none

/-- Takes the fault of a check, or goes on. -/
def State.flumeOr (s : State) (t : Nat) (f : Option (BitVec 8 × BitVec 8)) (k : State) : State :=
  match f with
  | some (code, aux) => s.faultP t code aux 0
  | none => k

/-! ## Sending (R361 to R363) -/

/-- SEND.W. -/
def execSendW (t : Tid) (e : EndNo) (ln : Reg3) (s : State) : Out :=
  issued s t (.sendW t e ln) { reads := [8 + ln.val] } (fun s =>
    let x := s.fend e.val
    let f := match s.endFault t e.val (some true) with
      | some f => some f
      | none =>
        if x.landing.length = endMaxlen s.cfg e.val + 1 then some (fFLUME_UNBOUND, 0x04)
        else if x.st ≠ .opened then some (fFLUME_CLOSED, BitVec.ofNat 8 e.val)
        else none
    s.flumeOr t f ((s.setEnd e.val { x with landing := x.landing ++ [(s.thr t).reg (8 + ln.val)] }.reserve).finish t 1))

/-- Hands the landing off as one message (R362). -/
def State.sendLanding (s : State) (e : Nat) : State :=
  let x := s.fend e
  (s.sendMsg e (x.seq + 1) x.landing).setEnd e { x with seq := x.seq + 1, landing := [], resv := false }

/-- SEND.E with a reserved credit: the message leaves, or the instruction waits for room (R362, R363). -/
def State.sendNow (s : State) (t e words : Nat) (i : Instr) : State :=
  if ¬ s.flmRoom then s.waitAt t i else (s.sendLanding e).finish t words

/-- SEND.E. -/
def execSendE (t : Tid) (e : EndNo) (s : State) : Out :=
  issued s t (.sendE t e) {} (fun s =>
    s.flumeOr t (s.sendFault t e.val true)
      (if (s.fend e.val).resv then s.sendNow t e.val 1 (.sendE t e) else s.park t (.sendE e.val) (.sendE t e)))

/-- Writes the destination fields of an instruction and finishes it. -/
def State.writeDone (s : State) (t : Nat) (p : Pre) (vals : List Word) : State :=
  s.spilling t p (fun s => (s.modThr t (fun th => th.writes ((p.writes.map th.regNo).zip vals))).finish t p.words)

/-- SENDC. -/
def execSendC (t : Tid) (rd : Reg) (e : EndNo) (s : State) : Out :=
  let p : Pre := { words := 2, writes := [rd.val] }
  issued s t (.sendC t rd e) p (fun s =>
    let x := s.fend e.val
    s.flumeOr t (s.sendFault t e.val false)
      (if x.st = .opened ∧ x.resv then
        if ¬ s.flmRoom then s.waitAt t (.sendC t rd e)
        else s.spilling t p (fun s => (s.sendLanding e.val).writeDone t p [1])
      else s.writeDone t p [0]))

/-! ## Receiving (R364, R365, R373) -/

/-- A take that would free a held slot with a credit return finds no room (R363). -/
def State.takeWaits (s : State) (e : Nat) : Bool := !endTile s.cfg e && s.freeSends e && !s.flmRoom

/-- RECV: a long operation with a register result, which waits at issue while 4 are pending (R54, R58). -/
def execRecv (t : Tid) (rd : Reg) (e : EndNo) (s : State) : Out :=
  let p : Pre := { words := 2, writes := [rd.val] }
  let i : Instr := .recv t rd e
  issued s t i p (fun s =>
    let f := match s.recvCheck t e.val with
      | some f => some f
      | none => if s.recvClosed e.val then some (fFLUME_CLOSED, BitVec.ofNat 8 e.val) else none
    s.flumeOr t f
      (if (s.thr t).fullResults then s.waitAt t i
      else if s.recvReady e.val then
        if s.takeWaits e.val then s.waitAt t i
        else s.spilling t p (fun s => (s.take e.val).writeDone t p [s.takeVal e.val])
      else s.spilling t p (fun s => s.park t (.recv e.val) i)))

/-- RECVC: with nothing to take it writes rd alone (R364). -/
def execRecvC (t : Tid) (rd : Reg) (e : EndNo) (s : State) : Out :=
  let p : Pre := { words := 2, writes := pairOf rd.val, illegal := oddPair rd.val }
  issued s t (.recvC t rd e) p (fun s =>
    s.flumeOr t (s.recvFault t e.val)
      (if s.recvReady e.val ∧ ¬ s.recvClosed e.val then
        if s.takeWaits e.val then s.waitAt t (.recvC t rd e)
        else s.spilling t p (fun s => (s.take e.val).writeDone t p [1, s.takeVal e.val])
      else s.writeDone t { p with writes := [rd.val] } [0]))

/-- Frees a held tile: its credits return at once (R367, R373). -/
def State.freeTile (s : State) (e : Nat) : State :=
  let c := endC s.cfg e
  (s.modEnd e (fun x => { x with tileHeld := false, nextRow := 0, landed := 0, credit := x.credit - c })).sendCredit e c

/-- FDONE. -/
def execFdone (t : Tid) (e : EndNo) (s : State) : Out :=
  issued s t (.fdone t e) {} (fun s =>
    s.flumeOr t (s.recvFault t e.val)
      (if endTile s.cfg e.val then
        if ¬ (s.fend e.val).tileHeld then s.finish t 1
        else if ¬ s.flmRoom then s.waitAt t (.fdone t e)
        else (s.freeTile e.val).finish t 1
      else if s.takeWaits e.val then s.waitAt t (.fdone t e)
      else (s.freeSlot e.val).finish t 1))

/-- FCLOSE: an end that is not OPEN keeps its state (R375), and a TILE end is no longer ARMED (R374). -/
def execFclose (t : Tid) (e : EndNo) (s : State) : Out :=
  issued s t (.fclose t e) { words := 2 } (fun s =>
    s.flumeOr t (s.endFault t e.val none)
      (if (s.fend e.val).st ≠ .opened then (if endTile s.cfg e.val then s.disarm e.val else s).finish t 2
      else if ¬ s.flmRoom then s.waitAt t (.fclose t e)
      else (if endDir s.cfg e.val then s.closeSend e.val else s.closeRecv e.val 0).finish t 2))

/-- FLAND. -/
def execFland (t : Tid) (e : EndNo) (tn : LTile) (s : State) : Out :=
  issued s t (.fland t e tn) { words := 2, uses := [tvIdx tn.val] } (fun s =>
    let f := match s.endFault t e.val (some false) with
      | some f => some f
      | none => if ¬ endTile s.cfg e.val ∨ (s.fend e.val).armed then some (fFLUME_UNBOUND, 0x03) else none
    s.flumeOr t f (s.viewed t [tn.val] (fun s =>
      let th := s.thr t
      let sh := th.shape tn.val
      if shRows sh ≠ endSlots s.cfg e.val then s.faultP t fTILE_SHAPE 0x51 0
      else if shWpr sh < endMaxlen s.cfg e.val + 1 then s.faultP t fTILE_SHAPE 0x50 0
      else if s.poisoned (th.phys tn.val) then s.faultP t fBLAZE (BitVec.ofNat 8 tn.val) 0
      else if ¬ s.flmRoom then s.waitAt t (.fland t e tn)
      else
        ((s.modEnd e.val (fun x =>
          { x with armed := true, phys := th.phys tn.val, shape := sh, nextRow := 0, landed := 0, tileHeld := false })).sendCredit
          e.val (endC s.cfg e.val)).finish t 2)))

/-- A FINFO that returns two words (R360). -/
def execFinfo (i : Instr) (t : Tid) (rd : Reg) (e : EndNo) (f : State → List Word) (s : State) : Out :=
  let p : Pre := { words := 2, writes := pairOf rd.val, illegal := oddPair rd.val, late := true }
  issued s t i p (fun s => s.flumeOr t (s.endFault t e.val none) (s.writeDone t p (f s)))

/-- FINFO.S. -/
def execFinfoS (t : Tid) (rd : Reg) (e : EndNo) (s : State) : Out :=
  execFinfo (.finfoS t rd e) t rd e (fun s => (s.endStatus e.val).take 2) s
/-- FINFO.N. -/
def execFinfoN (t : Tid) (rd : Reg) (e : EndNo) (s : State) : Out :=
  execFinfo (.finfoN t rd e) t rd e (fun s => (s.endStatus e.val).drop 2) s
/-- FINFO.P. -/
def execFinfoP (t : Tid) (rd : Reg) (e : EndNo) (s : State) : Out :=
  execFinfo (.finfoP t rd e) t rd e (fun s => [endW s.cfg e.val 1, endW s.cfg e.val 2]) s

/-! ## Inbound packets (R367, R370, R371, R375) -/

/-- A flume packet arrives: one of this core to itself is no longer in transit (R381). -/
def State.arrived (s : State) (cls : Nat) (src : CoreId) (payload : List Word) : State :=
  if src = s.ident then { s with loop := s.loop.erase ⟨BitVec.ofNat 4 cls, s.ident, src, payload⟩ } else s

/-- Flume packets are taken in: the core is live, and neither in CLEARING nor in a warm reset (R502). -/
def State.flumesIn (s : State) : Bool := s.live && decide (s.core ≠ .clearing) && s.warm.isNone

/-- Discards a packet for end `e`; Fraina is told unless the end is UNBOUND or CLOSED. `cond` is the failed condition of R370:
1 the state, 2 the source, 3 kind, length or sequence, 4 no free slot or row. -/
def State.flmDiscard (s : State) (e : Nat) (src : CoreId) (cond : Nat) : State :=
  let s := s.count cFlmDiscard 1
  match (s.fend e).st with
  | .unbound | .closed => s
  | _ => s.faultNoticeNone fFLUME_UNBOUND (BitVec.ofNat 8 e) 0 [wd e, idLo src, idHi src, wd cond]

/-- The packet comes from the end's peer. -/
def fromPeer (c : Tab Word) (e : Nat) (src : CoreId) (pend : Nat) : Bool := endPeer c e == src && decide (endPend c e = pend)

/-- The first condition of R370 that a message fails. -/
def State.flmRefusal (s : State) (e : Nat) (src : CoreId) (pend kind : Nat) (seq : Word) (len : Nat) : Option Nat :=
  let x := s.fend e
  if x.st ≠ .opened ∨ endDir s.cfg e then some 1
  else if ¬ fromPeer s.cfg e src pend then some 2
  else if kind ≠ 0 ∨ len = 0 ∨ len > endMaxlen s.cfg e + 1 ∨ seq ≠ x.seq + 1 then some 3
  else if x.credit ≥ endC s.cfg e ∨ (endTile s.cfg e ∧ ¬ x.armed) then some 4
  else none

/-- An accepted message (R370): it goes to the next slot, or to the next row. -/
def State.flmAccept (s : State) (e : Nat) (seq : Word) (data : List Word) : State :=
  let x := s.fend e
  let x' : FEnd := { x with seq := seq, credit := x.credit + 1 }
  if endTile s.cfg e then { s.setEnd e x' with landWrites := s.landWrites ++ [(⟨e, x.credit, seq, data⟩ : InMsg)] }
  else
    let s := s.setEnd e { x' with fill := (x.fill + 1) % endC s.cfg e }
    let s : State := { s with ringWrites := s.ringWrites ++ [⟨e, x.fill, seq, data⟩] }
    s.endEvent e

/-- FLM_MSG. DESIGN CHOICE (log entry 12): R368 gives a message 1 to 16 words, and the spec does not say what a packet of another
length does; one that a packet can carry fails R370 by its length. -/
def execFlmMsg (src : CoreId) (dend sendEnd : EndNo) (kind : BitVec 2) (seq : Word) (data : List Word) (s : State) : Out :=
  .next (if data.length > 62 then s.discardLong
    else
      let s := s.arrived clsFLM src (flmWord0 dend sendEnd kind.toNat (data.length - 1) :: seq :: data)
      if ¬ s.flumesIn then s
      else match s.flmRefusal dend.val src sendEnd.val kind.toNat seq data.length with
        | some c => s.flmDiscard dend.val src c
        | none => s.flmAccept dend.val seq data)

/-- FLM_CLOSE. -/
def execFlmClose (src : CoreId) (dend sendEnd : EndNo) (seq : Word) (s : State) : Out :=
  let s := s.arrived clsFLM src [flmWord0 dend sendEnd 1 0, seq]
  .next (if ¬ s.flumesIn then s
    else
      let e := dend.val
      let x := s.fend e
      if x.st ≠ .opened ∨ endDir s.cfg e then s.flmDiscard e src 1
      else if ¬ fromPeer s.cfg e src sendEnd.val then s.flmDiscard e src 2
      else if seq ≠ x.seq then s.flmDiscard e src 3
      else (s.setEnd e { x with st := .peerClosed }).leftOpen e)

/-- The first condition that an FCR fails: an OPEN send end, its peer. -/
def State.fcrRefusal (s : State) (e : Nat) (src : CoreId) (pend : Nat) : Option Nat :=
  if (s.fend e).st ≠ .opened ∨ ¬ endDir s.cfg e then some 1
  else if ¬ fromPeer s.cfg e src pend then some 2
  else none

/-- FCR_CREDIT. -/
def execFcrCredit (src : CoreId) (dend recvEnd : EndNo) (value : Word) (s : State) : Out :=
  let s := s.arrived clsFCR src [flmWord0 dend recvEnd 0 0, value]
  .next (if ¬ s.flumesIn then s
    else match s.fcrRefusal dend.val src recvEnd.val with
      | some c => s.flmDiscard dend.val src c
      | none => if value = 0 ∨ value.toNat > 64 then s.flmDiscard dend.val src 3 else s.creditArrive dend.val value.toNat)

/-- FCR_CLOSED: counted at whichever end it names (R372). -/
def execFcrClosed (src : CoreId) (dend recvEnd : EndNo) (why : BitVec 4) (value consumed : Word) (s : State) : Out :=
  let s := s.arrived clsFCR src [flmWord0 dend recvEnd 1 why.toNat, value, consumed]
  .next (if ¬ s.flumesIn then s
    else
      let s := s.count cFlmClosedRx 1
      match s.fcrRefusal dend.val src recvEnd.val with
      | some c => s.flmDiscard dend.val src c
      | none => s.peerGone dend.val .peerClosed value consumed)

/-- The lowest send end with a peer, in a state that `ok` names, among whose last 64 messages a sequence number is. -/
def State.absEnd (s : State) (src : CoreId) (seq : Word) (ok : EndSt → Bool) : Option Nat :=
  (List.range 32).find? (fun e =>
    ok (s.fend e).st && endDir s.cfg e && endPeer s.cfg e == src && decide (((s.fend e).seq - seq).toNat < 64))

/-- An ABS for an FLM with a sequence number moves an OPEN end to PEER_ABSENT; for an end that is not OPEN it is discarded under
R370 (R36, R375). -/
def State.flmAbsent (s : State) (src : CoreId) (seq : Word) : State :=
  match s.absEnd src seq (· == .opened) with
  | some e => s.peerGone e .peerAbsent (seq - 1) (seq - 1)
  | none =>
    match s.absEnd src seq (fun st => st != .unbound) with
    | some e => s.flmDiscard e src 1
    | none => s.count cFlmDiscard 1

/-! ## Transport (R356, R357, R363, R373) -/

/-- FLUME_PACKET_OUT. -/
def execFlumePacketOut (s : State) : Out :=
  .next (if ¬ s.live then s
    else match s.flumeOut with
      | p :: q =>
        { s with flumeOut := q, gpOut := s.gpOut ++ [p], loop := if p.dst = s.ident then s.loop ++ [p] else s.loop }
      | [] => s)

/-- RING_SLOT_WRITE. -/
def execRingSlotWrite (e : EndNo) (s : State) : Out :=
  .next (if ¬ s.runs then s
    else match s.ringWrites.find? (fun m => m.e = e.val) with
      | none => s
      | some m =>
        let s := { s with ringWrites := s.ringWrites.erase m }
        (s.msetList (slotAddr s.cfg m.e m.place) ([wd (m.data.length - 1), m.seq] ++ m.data)).modEnd m.e
          (fun x => { x with avail := x.avail + 1 }))

/-- TILE_LANDING_WRITE: only a tile allotted to the end's owner is written (R217). -/
def execTileLandingWrite (e : EndNo) (s : State) : Out :=
  .next (if ¬ s.runs then s
    else match s.landWrites.find? (fun m => m.e = e.val) with
      | none => s
      | some m =>
        let s := { s with landWrites := s.landWrites.erase m }
        let x := s.fend m.e
        if ¬ x.armed ∨ tileOwner s.cfg x.phys ≠ some (endOwner s.cfg m.e) then s
        else
        let s := (s.tsetList x.phys (m.place * shWpr x.shape) m.data).setEnd m.e
          { x with nextRow := x.nextRow + 1, landed := x.landed + 1 }
        if x.landed + 1 = endC s.cfg m.e then s.endEvent m.e else s)

/-! ## Stall limits and stillness (R379, R381, R382) -/

/-- The thread is parked in SEND.E on an end. -/
def Thread.inSendE (th : Thread) (e : Nat) : Bool :=
  match th.st, th.park with
  | .parked, some ⟨.sendE e', _⟩ => decide (e = e')
  | _, _ => false

/-- FLUME_STALL. -/
def execFlumeStall (e : EndNo) (s : State) : Out :=
  let c := s.cfg
  let x := s.fend e.val
  let t := endOwner c e.val
  .next (if ¬ s.runs ∨ ¬ (s.thr t).inSendE e.val ∨ x.resv ∨ x.stall < 2 ^ endStall c e.val then s
    else
      let aux := BitVec.ofNat 8 e.val
      let pc := (s.thr t).pc
      (s.wakeFault t fFLUME_STALL aux).faultNotice t fFLUME_STALL aux pc 0
        [wd e.val, idLo (endPeer c e.val), idHi (endPeer c e.val), wd (endPend c e.val), x.seq, wd x.credit])

/-- A flume packet of a channel with both ends on this core is in transit: it waits to leave, has left and not arrived, or is on its way
to its slot or row (R381). -/
def State.transit (s : State) : Bool :=
  s.flumeOut.any (fun p => p.dst == s.ident) || decide (s.loop ≠ []) ||
    (s.ringWrites ++ s.landWrites).any (fun m => endPeer s.cfg m.e == s.ident)

/-- A parked thread's wait is one that a still core may hold (R381). -/
def State.stillWait (s : State) (th : Thread) : Bool :=
  match th.park with
  | some ⟨.sendE e, _⟩ => endPeer s.cfg e == s.ident
  | some ⟨.recv e, _⟩ => endPeer s.cfg e == s.ident
  | some ⟨.wait _, _⟩ => true
  | _ => false

/-- The core is still (R381). -/
def State.isStill (s : State) : Bool :=
  s.threads.all (fun e => match e.2.st with
    | .empty | .felled => true
    | .parked => s.stillWait e.2
    | _ => false) &&
  s.threads.any (fun e => decide (e.2.st = .parked)) &&
  s.threads.all (fun e => decide (e.2.ops = []) && e.2.dla == 0 && e.2.dlb == 0) &&
  decide (s.merge = []) && s.farOps.all (fun o => !o.store) && s.tags.all (fun e => match e.2 with
    | .entry _ => false
    | _ => true) &&
  (List.range 4).all (fun n => (s.lane n).st ≠ .running) &&
  !s.transit &&
  (List.range 32).all (fun e =>
    endDir s.cfg e || decide ((s.fend e).st = .unbound) || endPeer s.cfg e == s.ident ||
      decide ((s.thr (endOwner s.cfg e)).st ≠ .parked))

/-- CAUSE.AUX of STILLNESS for a parked thread (R382). -/
def Thread.stillAux (th : Thread) : BitVec 8 :=
  match th.park with
  | some ⟨.sendE e, _⟩ => BitVec.ofNat 8 e
  | some ⟨.recv e, _⟩ => BitVec.ofNat 8 e
  | some ⟨.wait v, _⟩ => BitVec.ofNat 8 (0x20 + v)
  | _ => 0

/-- STILLNESS. -/
def execStillness (s : State) : Out :=
  .next (if ¬ s.runs ∨ s.stillCtr < 64 ∨ s.stillRaised ∨ ¬ s.isStill then s
    else
      let tids := (s.threads.filter (fun e => e.2.st = .parked)).map (·.1)
      let mask := tids.foldl (fun m t => m + 2 ^ t) 0
      let s := { s with
        stillRaised := true
        threads := s.threads.mapVal (fun th : Thread =>
          if th.st = ThSt.parked then { th with still := some (item fSTILLNESS th.stillAux th.pc 0) } else th) }
      (s.notify nSTILLNESS ((List.range 4).map (fun k => wd (mask / 2 ^ (16 * k))))).wardenReport
        (item fSTILLNESS (BitVec.ofNat 8 tids.length) 0 0) false)

end Sys2Proof.Machine
end

