-- ==== Sys2Proof/Machine/Clock.lean ====
section
/-!
DEFINITION. Clocks (file 16, R487 to R499, R505, R508): the cycle tick, the monitor, switches of ACLK, lock and time-out events,
and the frequency counter; the end of an array self-test (R415, R506).
-/
namespace Sys2Proof.Machine

/-! ## A delivered cycle -/

/-- A deadline counter after a cycle in which it counts, and whether it has reached 0 (R130, R439, R440). -/
def countDown (v : Word32) (due : Bool) : Word32 × Bool := if v = 0 then (v, due) else (v - 1, due || decide (v = 1))

/-- A counter is written, with new parity, only when it counts. DESIGN CHOICE (log entry 46): R74 does not say what a count of a
word with failing parity leaves. -/
def Thread.setDlaIf (th : Thread) (v : Word32) : Thread := if v = th.dla then th else th.setDla v
def Thread.setDlbIf (th : Thread) (v : Word32) : Thread := if v = th.dlb then th else th.setDlb v

/-- A thread after a delivered cycle: deadlines (R440) and the interval of NOTIFY_HOST (R416). -/
def Thread.tick (th : Thread) : Thread :=
  let th := { th with notifyAge := match th.notifyAge with
    | some n => if n + 1 ≥ 65536 then none else some (n + 1)
    | none => none }
  if th.st = .running ∨ th.st = .parked then
    let a := countDown th.dla th.dlaDue
    let b := countDown th.dlb th.dlbDue
    { ((th.setDlaIf a.1).setDlbIf b.1) with dlaDue := a.2, dlbDue := b.2 }
  else th

/-- Whether source `x` of a frequency count is one whose cycles the model counts: 3 ACLK, 4 MCLK (R499). -/
def counted (x : Nat) : Bool := decide (x = 3) || decide (x = 4)

/-- The counted source, the reference and the exponent of a frequency count (R415, R499). -/
def FreqJob.x (j : FreqJob) : Nat := fld j.req 2 0
def FreqJob.y (j : FreqJob) : Nat := fld j.req 5 3
def FreqJob.n (j : FreqJob) : Nat := fld j.req 10 6

/-- The reference has delivered its cycles, as far as the model counts them. -/
def FreqJob.full (j : FreqJob) : Bool := counted j.y && decide (j.ys ≥ 2 ^ j.n)

/-- A frequency count after `a` cycles of ACLK and `m` of MCLK: it begins at the first edge of the reference and ends with the last
(R499). -/
def FreqJob.tick (j : FreqJob) (a m : Nat) : FreqJob :=
  let of_ (x : Nat) : Nat := if x = 3 then a else if x = 4 then m else 0
  let j := { j with age := j.age + a }
  if j.full then j
  else if ¬ j.begun then { j with begun := !counted j.y || decide (of_ j.y > 0) }
  else { j with xs := j.xs + of_ j.x, ys := j.ys + of_ j.y }

/-- One period of ACLK passes on MCLK, which is root / 16 where ACLK is root / DIV (R488); `a` is 1 when ACLK delivers it. -/
def State.tickMclk (s : State) (a : Nat) : State :=
  let f := s.mclkFrac + s.clk.div
  let m := if f ≥ 16 then 1 else 0
  { s with
    mclk := s.mclk + m, mclkFrac := f - 16 * m
    clk := { s.clk with freq := s.clk.freq.map (fun j : FreqJob => j.tick a m) } }

/-- The clock counters after a delivered cycle. -/
def State.tickClk (s : State) : State :=
  let s := ({ s with cycle := s.cycle + 1, slotCtr := s.slotCtr + 1 }).tickMclk 1
  if s.clk.bringup = .tryA ∨ s.clk.bringup = .tryB then { s with clk := { s.clk with tryCycles := s.clk.tryCycles + 1 } } else s

/-- The merging buffer, the cruise guarantee and the warm drain after a delivered cycle (R143, R167, R502). -/
def State.tickMem (s : State) : State :=
  { s with
    merge := if s.core = .faulted then s.merge else s.merge.map (fun m : MergeEntry => { m with age := m.age + 1 })
    cruiseAge := s.cruiseAge + 1
    warm := s.warm.map (fun w : Warm => { w with age := w.age + 1 }) }

/-- Stall counts of the sends and completion messages that wait (R379, R396). -/
def State.tickFlumes (s : State) : State :=
  { s with
    ends := s.ends.map (fun e : Nat × FEnd =>
      if endDir s.cfg e.1 && (s.thr (endOwner s.cfg e.1)).inSendE e.1 then (e.1, { e.2 with stall := e.2.stall + 1 }) else e)
    lanes := s.lanes.mapVal (fun l : Lane =>
      if l.st = .running ∧ l.phase = .message then { l with msgWait := l.msgWait + 1 } else l) }

/-- The stillness count (R381, R382). -/
def State.tickStill (s : State) : State :=
  if s.isStill then { s with stillCtr := s.stillCtr + 1 } else { s with stillCtr := 0, stillRaised := false }

/-- A switch of DIV is in progress, in which MCLK goes on (R495). -/
def State.divSwitch (s : State) : Bool :=
  s.pins.pwrOk && s.pins.rstColdN && s.clk.switch.any (fun w => decide (w.kind = 1))

/-- One delivered ACLK cycle, in which time-driven counts advance; while none is delivered, nothing changes but MCLK in a switch of
DIV. -/
def State.tick (s : State) : State :=
  if ¬ s.live then (if s.divSwitch then s.tickMclk 0 else s)
  else
    let s := s.tickClk.tickMem
    let s : State := { s with arrs := s.arrs.map (fun e => (e.1, e.2.sweep e.1)) }
    if s.runs then
      let s : State := { s with threads := s.threads.mapVal Thread.tick }
      s.tickFlumes.tickStill
    else s

/-! ## SAFE_OUT (R28, R508) -/

/-- SAFE_OUT, driven while PWR_OK is high: the core is FAULTED, a failure declaration stands, or the understory oscillator is the
root by CLOCK_SELECT or during a cold bring-up. -/
def State.safeOut (s : State) : Bool :=
  s.pins.pwrOk && (decide (s.core = .faulted) || s.clk.fallback || s.clk.selUnder || decide (s.clk.root = 2))

/-! ## The monitor (R490 to R493) -/

/-- TRIM.TOL, of which 0 acts as 8 (R485, R500). -/
def State.tol (s : State) : Nat :=
  let t := fld (Tab.get 0 s.trim 3) 4 0
  if t = 0 then 8 else t

/-- The distance of two counts. -/
def apart (a b : Nat) : Nat := (a - b) + (b - a)

/-- A monitor window passes (R490). -/
def State.windowOk (s : State) (count : Nat) : Bool := decide (10 * apart count 320 ≤ 16 * s.tol)

/-- A reverse window passes (R493). -/
def State.reverseOk (s : State) (count : Nat) : Bool := decide (100 * apart count 256 ≤ 128 * s.tol)

/-- CLOCK_MONITOR_WINDOW: a failed window is a failure declaration, and the fallback begins (R490, R492). -/
def execClockMonitorWindow (count : Nat) (s : State) : Out :=
  .next (if ¬ s.live ∨ ¬ s.clk.root < 2 ∨ ¬ s.clk.monitorOn ∨ s.windowOk count then s
    else
      (({ s with clk := { s.clk with fallback := true } }).setFall true).requestSwitch ⟨0, 2, s.clk.div, none, false, false⟩)

/-- REVERSE_COUNT_WINDOW (R493). -/
def execReverseCountWindow (count : Nat) (s : State) : Out :=
  .next (if ¬ s.live ∨ ¬ s.clk.root < 2 ∨ s.reverseOk count then s
    else
      ({ s with clk := { s.clk with monitorOn := false } }).faultNoticeNone fWINDTHROW 0x03 0 [wd count])

/-! ## Locks and time-outs (R494, R505) -/

/-- CLOCK_SELECT_LOCK: the named CDR has locked and one window of it has passed. -/
def execClockSelectLock (s : State) : Out :=
  .next (if ¬ s.live then s
    else match s.clk.selWait with
      | none => s
      | some c => ({ s with clk := { s.clk with selWait := none } }).requestSwitch ⟨2, c, 0, none, true, false⟩)

/-- CLOCK_SELECT_TIMEOUT: BUSY with the present source. -/
def execClockSelectTimeout (s : State) : Out :=
  .next (if ¬ s.live then s
    else match s.clk.selWait with
      | none => s
      | some _ => ({ s with clk := { s.clk with selWait := none } }).atpEnd aBUSY [wd s.clk.root])

/-- BRINGUP_CDR_LOCK: the CDR being tried has locked and passed a window. -/
def execBringupCdrLock (s : State) : Out :=
  .next (if ¬ s.live then s
    else match s.clk.bringup with
      | .tryA => s.requestSwitch ⟨2, 0, 0, none, false, true⟩
      | .tryB => s.requestSwitch ⟨2, 1, 0, none, false, true⟩
      | _ => s)

/-- BRINGUP_CDR_TIMEOUT: 4,096 cycles of the try have passed. -/
def execBringupCdrTimeout (s : State) : Out :=
  .next (if ¬ s.live ∨ s.clk.tryCycles < 4096 then s
    else match s.clk.bringup with
      | .tryA => { s with clk := { s.clk with bringup := .tryB, tryCycles := 0 } }
      | .tryB => ({ s with clk := { s.clk with bringup := .gaveUp } }).notify nCLOCK [0, 1, 2, wd s.clk.div]
      | _ => s)

/-! ## The frequency counter (R499) -/

/-- The answer of a frequency count. -/
def State.freqEnd (s : State) (j : FreqJob) (v : Word32) : State :=
  let s := { s with clk := { s.clk with freq := none } }
  match j.svc with
  | some t => s.svcEnd t (lo32 v) (some (hi32 v))
  | none => s.atpEnd aDONE [lo32 v, hi32 v]

/-- The count may end so: with a result once the reference, where the model counts it, has delivered its 2^n cycles, and without
one while it has not; against the understory oscillator after 2^(n+4) cycles of ACLK (R499). -/
def FreqJob.ends (j : FreqJob) (done : Bool) : Bool :=
  if done then j.begun && (!counted j.y || j.full)
  else !j.full && (decide (j.y ≠ 2) || decide (j.age ≥ 2 ^ (j.n + 4)))

/-- The result: the model's own count of the delivered cycles of ACLK or MCLK, else the count that the command reports. -/
def FreqJob.result (j : FreqJob) (v : Word32) : Word32 := if counted j.x then BitVec.ofNat 32 j.xs else v

/-- FREQ_COUNT_DONE: the count, or none when the reference did not deliver its cycles in time. -/
def execFreqCountDone (count : Option Word32) (s : State) : Out :=
  .next (if ¬ s.live then s
    else match s.clk.freq with
      | none => s
      | some j =>
        if ¬ j.ends count.isSome then s
        else match count with
          | some v => s.freqEnd j (j.result v)
          | none => s.freqEnd j 0xFFFFFFFF)

/-! ## Array self-tests (R415, R504, R506) -/

/-- The self-test of array `a` ends: for a service, or in the bring-up. -/
def State.selfTest (s : State) (a : Nat) (pass : Bool) : State :=
  match (s.arr a).testing with
  | some t =>
    let s := s.modArr a (fun x => { x with testing := none })
    if pass then s.svcEnd t 1 none else (s.fellArray a 4).svcEnd t 0 none
  | none =>
    if bit s.ready (6 + a) ∨ s.cycle < 1200 ∨ ¬ s.pins.rstWarmN then s
    else if pass then s.setReady (wd (2 ^ (6 + a) + 2 ^ (8 + a)))
    else (s.fellArray a 4).setReady (wd (2 ^ (6 + a)))

/-- ARRAY_SELF_TEST_DONE. -/
def execArraySelfTestDone (a : ArrNo) (pass : Bool) (s : State) : Out :=
  .next (if ¬ s.live ∨ s.warm.isSome then s else s.selfTest a.val pass)

end Sys2Proof.Machine
end

