-- ==== Sys2Proof/Machine/Far.lean ====
section
/-!
DEFINITION. The far path: LDF and STF (R122 to R124), far requests (R153 to R156), the far cache (R157 to R164), the merging
buffer (R166 to R169), FAR_CACHE_FATAL and the FAULTED state (R170, R438).
-/
namespace Sys2Proof.Machine

/-! ## Addresses (R19, R20, R153) -/

def farBlock (a : FarAddr) : Nat := a.toNat / 16
def farDevice (a : FarAddr) : Nat := a.toNat / 2 ^ 43
def farSpace (a : FarAddr) : Bool := a.getLsbD 42
/-- INDEX, address[41:16]. -/
def farIndex (a : FarAddr) : Nat := a.toNat / 2 ^ 16 % 2 ^ 26
/-- WORD, address[15:0]. -/
def farWord (a : FarAddr) : Nat := a.toNat % 2 ^ 16

/-- The destination of a far request, if the address names a target (R153). -/
def farDst (a : FarAddr) : Option CoreId :=
  let core (n : Nat) : CoreId := BitVec.ofNat 24 (farDevice a * 2 ^ 15 + n)
  if ¬ farSpace a then some (core 0x7FFF)
  else if farIndex a < 0x6400 then some (core (farIndex a))
  else if farIndex a < 0x2000000 then none
  else some (core 0x7FFE)

/-- The words of a far address, low word first (R154). -/
def farAddrWords (a : FarAddr) : List Word :=
  [wd a.toNat, wd (a.toNat / 2 ^ 16), wd (a.toNat / 2 ^ 32), wd (a.toNat / 2 ^ 48)]

def blockAddr (b : Nat) : FarAddr := BitVec.ofNat 52 (16 * b)

/-- A FAR request leaves (R29, R154). -/
def State.farSend (s : State) (wt : WT) (op tag : Nat) (a : FarAddr) (last : Word) (data : List Word) : State :=
  match farDst a with
  | some d => s.emit clsFAR d ([wt.setWidth 16, wd (op + 256 * tag)] ++ farAddrWords a ++ [last] ++ data)
  | none => s

/-- A free far tag, of which the model takes the lowest. DESIGN CHOICE (log entry 43): R154 and R156 name no order. -/
def State.freeTag (s : State) : Option Nat := (List.range 16).find? (fun k => (Tab.find s.tags k).isNone)

/-! ## The far cache (R157 to R164) -/

def fcSplit (c : Tab Word) : Nat := fld (cfgAt c 0x0040) 1 0
def wtWorld (wt : WT) : Bool := wt.getLsbD 12

/-- The world has lines (R157). -/
def worldCached (c : Tab Word) (wt : WT) : Bool :=
  match fcSplit c with
  | 2 => !wtWorld wt
  | 3 => wtWorld wt
  | _ => true

/-- The line index of a block (R157). -/
def lineIdx (c : Tab Word) (wt : WT) (b : Nat) : Nat := if fcSplit c = 1 then b % 32 + 32 * b2n (wtWorld wt) else b % 64

def FarOp.block (o : FarOp) : Nat := farBlock o.addr
/-- Position of the access in its block. -/
def FarOp.pos (o : FarOp) : Nat := o.addr.toNat % 16
/-- Words of the access. -/
def FarOp.size (o : FarOp) : Nat := if o.store then o.data.length else o.dests.length

def Line.holds (l : Line) (b : Nat) (wt : WT) : Bool := decide (l.block = b) && decide (l.wt = wt)
/-- A parity failure in the tag, or in a word that a hit reads (R164). -/
def Line.bad (l : Line) (o : FarOp) : Bool :=
  !l.tagOk || (l.holds o.block o.wt && (List.range o.size).any (fun i => !parOk (l.words.getD (o.pos + i) pw0)))
def Line.vals (l : Line) (o : FarOp) : List Word := (List.range o.size).map (fun i => (l.words.getD (o.pos + i) pw0).d)

/-- Invalidates a line or a buffered line whose parity fails (R164). -/
def State.dropBad (s : State) (o : FarOp) : State :=
  let i := lineIdx s.cfg o.wt o.block
  let s := match Tab.find s.lines i with
    | some l => if l.bad o then { s with lines := Tab.del s.lines i }.count cFcParity 1 else s
    | none => s
  match s.evict with
  | some l => if l.bad o then { s with evict := none }.count cFcParity 1 else s
  | none => s

/-- Looks a cached load up: the words of a hit, and the state with the lines exchanged when the eviction buffer hit (R159). -/
def State.cacheLook (s : State) (o : FarOp) : State × Option (List Word) :=
  let s := s.dropBad o
  let i := lineIdx s.cfg o.wt o.block
  let inLine := match Tab.find s.lines i with
    | some l => if l.holds o.block o.wt then some (l.vals o) else none
    | none => none
  match inLine with
  | some v => (s, some v)
  | none =>
    match s.evict with
    | some l =>
      if l.holds o.block o.wt then ({ s with lines := Tab.put s.lines i l, evict := Tab.find s.lines i }, some (l.vals o))
      else (s, none)
    | none => (s, none)

/-- The fill that a block waits for is outstanding (R160). -/
def State.filling (s : State) (b : Nat) (wt : WT) : Bool :=
  s.tags.any (fun e => match e.2 with
    | .fill b' wt' _ _ => decide (b = b') && decide (wt = wt')
    | _ => false)

/-- The miss slot is in use (R161). -/
def State.missBusy (s : State) : Bool :=
  s.ahead.isSome || s.tags.any (fun e => match e.2 with
    | .fill _ _ _ _ => true
    | _ => false)

/-- Writes words at consecutive positions. -/
def putWords (m : Tab Word) (p : Nat) : List Word → Tab Word
  | [] => m
  | w :: ws => putWords (Tab.put m p w) (p + 1) ws

/-- The words of a block that stores not yet sent hold (R163, R171). -/
def State.unsent (s : State) (b : Nat) (wt : WT) : Tab Word :=
  let m := s.merge.foldl (fun m e =>
    if e.block = b ∧ e.wt = wt then e.words.foldl (fun m w => Tab.put m w.1 w.2.d) m else m) []
  s.farOps.foldl (fun m o => if o.wait = .merge ∧ o.block = b ∧ o.wt = wt then putWords m o.pos o.data else m) m

/-- Those and the words stored since an outstanding fill was sent. -/
def State.overlay (s : State) (b : Nat) (wt : WT) : Tab Word :=
  let m := s.tags.foldl (fun m e => match e.2 with
    | .fill b' wt' _ st => if b = b' ∧ wt = wt' then st.foldl (fun m w => Tab.put m w.1 w.2) m else m
    | _ => m) []
  (s.unsent b wt).foldl (fun m w => Tab.put m w.1 w.2) m

/-- A store reaches a matching line, and a fill of its block that is outstanding (R163, R166). -/
def State.storeThrough (s : State) (o : FarOp) (lines : Bool) : State :=
  let b := o.block
  let s := { s with tags := s.tags.mapVal (fun g => match g with
    | .fill b' wt' a st => if b = b' ∧ o.wt = wt' then .fill b' wt' a (putWords st o.pos o.data) else g
    | g => g) }
  let upd (l : Line) : Line :=
    if l.holds b o.wt then
      { l with words := (List.range 16).map (fun i =>
          if o.pos ≤ i ∧ i < o.pos + o.data.length then pw (o.data.getD (i - o.pos) 0) else l.words.getD i pw0) }
    else l
  if lines then { s with lines := s.lines.mapVal upd, evict := s.evict.map upd } else s

/-! ## The merging buffer (R166, R167) -/

/-- The number of the store that opened an entry. -/
def MergeEntry.born (m : MergeEntry) : Nat := m.ops.headD 0

/-- A store merges into the entry of its block. -/
def MergeEntry.join (m : MergeEntry) (o : FarOp) : MergeEntry :=
  { m with
    words := (List.range o.data.length).foldl (fun w i => Tab.put w (o.pos + i) (pw (o.data.getD i 0))) m.words
    threads := if m.threads.contains o.tid then m.threads else m.threads ++ [o.tid]
    ops := m.ops ++ [o.id] }

/-- The entry that a store opens. -/
def MergeEntry.opened (o : FarOp) : MergeEntry :=
  MergeEntry.join { block := o.block, wt := o.wt, words := [], threads := [], ops := [], age := 0, due := false } o

/-- Changes the first entry of a block, world and tenant that the store may join. -/
def joinFirst (o : FarOp) (ok : MergeEntry → Bool) : List MergeEntry → Option (List MergeEntry)
  | [] => none
  | m :: ms =>
    if m.block = o.block ∧ m.wt = o.wt ∧ ok m then some (m.join o :: ms) else (joinFirst o ok ms).map (m :: ·)

/-- An access that waits in the far queue (R156). DESIGN CHOICE (log entry 42): a load that waits for an outstanding fill sends
nothing of its own, and the spec does not say whether it keeps a place in the queue; here it keeps none. -/
def FarWait.queued : FarWait → Bool
  | .miss | .uncached | .merge => true
  | _ => false

/-- An access to the block that came after the entry and before the store still waits to be sent: the store does not join that
entry, which leaves before the access (R167, R171). -/
def State.parted (s : State) (o : FarOp) (m : MergeEntry) : Bool :=
  s.farOps.any (fun q => q.wait.queued && decide (q.block = o.block) && decide (m.born < q.id) && decide (q.id < o.id))

/-- A buffered store enters the merging buffer, unless it may join no entry and all 4 are in use (R166, R171). -/
def State.enterMerge (s : State) (o : FarOp) : Option State :=
  match joinFirst o (fun m => !s.parted o m) s.merge with
  | some ms => some { s with merge := ms }
  | none => if s.merge.length < 4 then some { s with merge := s.merge ++ [MergeEntry.opened o] } else none

def State.dropFar (s : State) (id : Nat) : State := { s with farOps := s.farOps.filter (fun o => o.id ≠ id) }

/-- Stores that wait for a free entry enter it in order (R166). -/
def State.drainMerge (s : State) : State :=
  (s.farOps.filter (fun o => o.wait = .merge)).foldl (fun s o =>
    match s.enterMerge o with
    | some s => s.dropFar o.id
    | none => s) s

/-- The far queue is full (R156). -/
def State.farFull (s : State) : Bool := decide ((s.farOps.filter (fun o => o.wait.queued)).length ≥ 16)

/-- Something earlier to the same block must leave first (R167, R171). -/
def State.farBehind (s : State) (o : FarOp) : Bool :=
  s.merge.any (fun m => decide (m.block = o.block) && decide (m.born < o.id)) ||
  s.farOps.any (fun q => decide (q.id < o.id) && decide (q.block = o.block) && q.wait.queued)

/-- Entries of the block that must be sent before an access become due (R167). -/
def State.dueFor (s : State) (o : FarOp) : State :=
  { s with merge := s.merge.map (fun m => if m.block = o.block ∧ m.born < o.id then { m with due := true } else m) }

/-! ## LDF and STF (R122 to R124, R158) -/

/-- The far address of XBn and an offset (R122). -/
def Thread.farAddr (th : Thread) (n : Nat) (off : Word) : FarAddr :=
  let w (k : Nat) : Nat := (th.useW (iXB + 3 * n + k)).toNat
  BitVec.ofNat 52 (((w 2 % 16 * 65536 + w 1) * 65536 + w 0) * 65536 + off.toNat)

/-- An uncached store of the thread to a word of the load, issued before it, is still to be sent: the load takes no fill whose request
leaves before that store (R171). -/
def State.storeFirst (s : State) (o : FarOp) : Bool :=
  s.farOps.any (fun q => decide (q.wait = .uncached) && q.store && decide (q.tid = o.tid) && decide (q.id < o.id) &&
    decide (q.block = o.block) && decide (q.pos < o.pos + o.size) && decide (o.pos < q.pos + q.size))

/-- Places a load that has been handed off. -/
def State.placeLoad (s : State) (o : FarOp) (nc : Bool) : State :=
  let put (s : State) (w : FarWait) : State :=
    { s with farOps := s.farOps ++ [{ o with wait := w, ovr := s.overlay o.block o.wt }] }
  if (farDst o.addr).isNone then put s .noTarget
  else if nc || !worldCached s.cfg o.wt then put s .uncached
  else
    match s.cacheLook o with
    | (s, some v) => put s (.hit v)
    | (s, none) => put s (if s.filling o.block o.wt && !s.storeFirst o then .onFill else .miss)

/-- Places a store that has been handed off. -/
def State.placeStore (s : State) (o : FarOp) (nc : Bool) : State :=
  let put (s : State) (w : FarWait) : State := { s with farOps := s.farOps ++ [{ o with wait := w }] }
  if (farDst o.addr).isNone then put s .noTarget
  else if nc then put s .uncached
  else
    let s := s.storeThrough o true
    match s.enterMerge o with
    | some s => s
    | none => put s .merge

/-- A far access of the given fields: the checks of R123 in their order, the capacity limits last, hand-off, placement. -/
def execFar (i : Instr) (t : Tid) (n : Xb) (store pair : Bool) (r : Reg) (off : Word) (s : State) : Out :=
  let fields := if pair then pairOf r.val else [r.val]
  let x := iXB + 3 * n.val
  let p : Pre :=
    { words := 2, reads := if store then fields else [], writes := if store then [] else fields, uses := [x, x + 1, x + 2],
      illegal := if pair then oddPair r.val else none }
  issued s t i p (fun s =>
    let th := s.thr t
    let w2 := th.useW (x + 2)
    if ¬ bit w2 (if store then 5 else 4) then s.faultP t fCOMPARTMENT (BitVec.ofNat 8 (0x10 + n.val)) off
    else if pair ∧ bit off 0 then s.faultP t fALIGN 0 off
    else if s.farFull ∨ th.noRoom p.writes then s.waitAt t i
    else s.spilling t p (fun s =>
      let pc := th.pc
      let data := if store then fields.map th.reg else []
      let (id, s) := s.handOff t 2 p.writes [] store 2
      let o : FarOp :=
        { id := id, tid := t, pc := pc, wt := th.wt, addr := th.farAddr n.val off, off := off, store := store, data := data,
          dests := p.writes.map th.regNo, ovr := [], wait := .sent }
      if store then s.placeStore o (bit w2 6) else s.placeLoad o (bit w2 6)))

/-- LDF. -/
def execLdf (t : Tid) (n : Xb) (rd : Reg) (off : Word) (s : State) : Out := execFar (.ldf t n rd off) t n false false rd off s
/-- LDF.P. -/
def execLdfP (t : Tid) (n : Xb) (rd : Reg) (off : Word) (s : State) : Out := execFar (.ldfP t n rd off) t n false true rd off s
/-- STF. -/
def execStf (t : Tid) (n : Xb) (rs : Reg) (off : Word) (s : State) : Out := execFar (.stf t n rs off) t n true false rs off s
/-- STF.P. -/
def execStfP (t : Tid) (n : Xb) (rs : Reg) (off : Word) (s : State) : Out := execFar (.stfP t n rs off) t n true true rs off s

/-! ## Sending (R153, R156, R160 to R162, R167) -/

/-- Sends READ_LINE for a block with a free tag; loads that wait for the block wait for this fill, but for those that an earlier store
must precede (R160, R171). -/
def State.sendLine (s : State) (tag b : Nat) (wt : WT) (ahead : Bool) : State :=
  let st := s.unsent b wt
  let s := s.farSend wt 0 tag (blockAddr b) 0 []
  { s with
    tags := Tab.put s.tags tag (.fill b wt ahead st)
    farOps := s.farOps.map (fun o =>
      if o.wait = .miss ∧ o.block = b ∧ o.wt = wt ∧ ¬ s.storeFirst o then { o with wait := .onFill } else o) }

/-- Sends a prefetch that waits, once a tag is free (R156, R162). -/
def State.sendAhead (s : State) : State :=
  match s.ahead, s.freeTag with
  | some (b, wt), some tag => ({ s with ahead := none }).sendLine tag b wt true
  | _, _ => s

/-- READ_LINE_SEND. -/
def execReadLineSend (s : State) : Out :=
  .next (if ¬ s.runs ∨ s.missBusy then s
    else match s.farOps.find? (fun o => o.wait = .miss) with
      | none => s
      | some o =>
        if s.farBehind o then s.dueFor o
        else match s.freeTag with
          | none => s
          | some tag =>
            let s : State := { s with farOps := s.farOps.map (fun q : FarOp => if q.id = o.id then { q with ovr := [] } else q) }
            let s := s.sendLine tag o.block o.wt false
            let nb := o.block + 1
            if (Tab.find s.lines (lineIdx s.cfg o.wt nb)).isNone ∧ nb / 4096 = o.block / 4096 then
              ({ s with ahead := some (nb, o.wt) }).sendAhead
            else s)

/-- FAR_REQUEST_SEND: the first uncached access that nothing holds back. -/
def execFarRequestSend (s : State) : Out :=
  .next (if ¬ s.runs then s
    else match s.farOps.find? (fun o => decide (o.wait = .uncached) && !s.farBehind o) with
      | none => (s.farOps.filter (fun o => o.wait = .uncached)).foldl (fun s o => s.dueFor o) s
      | some o =>
        match s.freeTag with
        | none => s
        | some tag =>
          let s := if o.store then s.storeThrough o false else s
          let s := s.farSend o.wt (if o.store then 3 else 2) tag o.addr (wd o.size) o.data
          { s with
            tags := Tab.put s.tags tag (.op o.id)
            farOps := s.farOps.map (fun q => if q.id = o.id then { q with wait := .sent } else q) })

/-- Completes a far access with FAR_ERROR (R21, R153, R164, R169). -/
def State.farFail (s : State) (o : FarOp) : State :=
  ((s.dropFar o.id).complete o.tid o.id (item fFAR_ERROR 0 o.pc o.off)).dropOp o.tid o.id

/-- FAR_NO_TARGET. -/
def execFarNoTarget (t : Tid) (s : State) : Out :=
  .next (if ¬ s.runs then s
    else match s.farOps.find? (fun o => decide (o.tid = t.val) && decide (o.wait = .noTarget)) with
      | some o => s.farFail o
      | none => s)

/-- FAR_CACHE_HIT_RETIRE. -/
def execFarCacheHitRetire (t : Tid) (s : State) : Out :=
  .next (if ¬ s.runs then s
    else
      (s.farOps.findSome? (fun o => match o.wait with
        | .hit v => if o.tid = t.val then some ((s.dropFar o.id).retire t o.id v) else none
        | _ => none)).getD s)

/-- MERGE_ENTRY_AGE: an entry 32 cycles old becomes due. -/
def execMergeEntryAge (i : Nat) (s : State) : Out :=
  .next (if ¬ s.live ∨ s.core = .faulted then s
    else { s with merge := s.merge.modify i (fun m => if m.age ≥ 32 then { m with due := true } else m) })

/-! ## FAULTED (R170, R438) -/

/-- A thread of a core that enters FAULTED. -/
def Thread.faulted (th : Thread) : Thread :=
  match th.st with
  | .empty | .felled => th
  | _ => { th with st := .halted, park := none, waiting := none, again := false, ops := [], held := [], rep := none, haltReq := none,
                   stepping := false, service := none }

/-- The core enters FAULTED: threads halt, the ends' closing packets leave, and nothing else goes on. -/
def State.enterFaulted (s : State) : State :=
  let s := ({ s with flumeOut := [] }).sendAllClosed 2
  { s with
    core := .faulted, faultCause := fFAR_CACHE_FATAL
    threads := s.threads.mapVal Thread.faulted
    ends := s.ends.mapVal (fun x =>
      if x.st = .opened then { x.discard with st := .closed, credit := 0, landing := [], resv := false } else x)
    ringWrites := [], landWrites := [] }

/-! ## The merging buffer leaves (R167, R168) -/

/-- The lowest written word of an entry and its mask. -/
def MergeEntry.low (m : MergeEntry) : Nat := (m.words.head?.map (·.1)).getD 0
def MergeEntry.mask (m : MergeEntry) : Nat := m.words.foldl (fun a w => a + 2 ^ w.1) 0
def MergeEntry.addr (m : MergeEntry) : FarAddr := BitVec.ofNat 52 (16 * m.block + m.low)

/-- The FAULT notice of a failed entry (R168, R502). -/
def State.lateNotice (s : State) (m : MergeEntry) (aux : BitVec 8) : State :=
  s.faultNoticeNone fLATE_STORE aux (wd m.addr.toNat)
    (farAddrWords m.addr ++ [wd (b2n (wtWorld m.wt)), wd (m.wt.toNat % 4096), wd m.mask])

/-- The entry is due (R166, R167). -/
def State.mergeDue (s : State) (i : Nat) (m : MergeEntry) : Bool :=
  m.due || decide (m.words.length = 16) || m.threads.any (fun t => (s.thr t).precise) || s.warm.isSome ||
  (decide (i = 0) && s.farOps.any (fun o => o.wait = .merge))

/-- An earlier access to the block waits to be sent, or an earlier entry of the block does (R167, R171). -/
def State.mergeHeld (s : State) (m : MergeEntry) : Bool :=
  s.merge.any (fun n => decide (n.block = m.block) && decide (n.born < m.born)) ||
  s.farOps.any (fun o => decide (o.id < m.born) && decide (o.block = m.block) && (o.wait = .miss || o.wait = .uncached))

/-- MERGE_ENTRY_SEND. -/
def execMergeEntrySend (i : Nat) (s : State) : Out :=
  .next (
    let frozen : Bool := match s.warm with
      | some w => w.frozen
      | none => false
    if ¬ s.live ∨ s.core = .faulted ∨ s.core = .clearing ∨ frozen = true then s
    else match s.merge[i]?, s.freeTag with
      | some m, some tag =>
        if ¬ s.mergeDue i m ∨ s.mergeHeld m then s
        else if m.words.any (fun w => !parOk w.2) then
          s.enterFaulted.faultNoticeNone fFAR_CACHE_FATAL 0 (wd (16 * m.block)) (farAddrWords (blockAddr m.block))
        else
          let data := (List.range 16).map (fun k => ((Tab.find m.words k).map (·.d)).getD 0)
          let s := { s with merge := s.merge.eraseIdx i, tags := Tab.put s.tags tag (.entry m) }
          (s.farSend m.wt 1 tag (blockAddr m.block) (wd m.mask) data).drainMerge
      | _, _ => s)

/-! ## Answers (R155, R160, R163, R164, R168, R169) -/

/-- Retires an operation of whichever thread holds it. -/
def State.retireAny (s : State) (id : Nat) (vals : List Word) : State :=
  match s.threads.find? (fun e => e.2.ops.any (fun o => o.id = id)) with
  | some e => s.retire e.1 id vals
  | none => s

/-- A fill with status OK is installed: a prefetch only at an invalid index (R160, R162, R163). -/
def State.install (s : State) (b : Nat) (wt : WT) (ahead : Bool) (st : Tab Word) (data : List Word) : State :=
  let i := lineIdx s.cfg wt b
  let l : Line :=
    { block := b, wt := wt, tagOk := true, words := (List.range 16).map (fun k => pw ((Tab.find st k).getD (data.getD k 0))) }
  match Tab.find s.lines i with
  | none => { s with lines := Tab.put s.lines i l }
  | some old => if ahead then s.count cFcPrefetchDrop 1 else { s with lines := Tab.put s.lines i l, evict := some old }

/-- The accesses that wait for a fill complete in issue order (R160, R164). -/
def State.fillDone (s : State) (b : Nat) (wt : WT) (ok : Bool) (data : List Word) : State :=
  (s.farOps.filter (fun o => o.wait = .onFill ∧ o.block = b ∧ o.wt = wt)).foldl (fun s o =>
    if ok then
      (s.dropFar o.id).retire o.tid o.id
        ((List.range o.size).map (fun k => (Tab.find o.ovr (o.pos + k)).getD (data.getD (o.pos + k) 0)))
    else s.farFail o) s

/-- Whether the response to a tag can carry `n` words when its status is OK; an access that a warm reset has ended takes whatever its
response carries (R155, R502). -/
def State.frsFits (s : State) (n : Nat) : FarTag → Bool
  | .fill _ _ _ _ => decide (n = 16)
  | .op id => match s.farOps.find? (fun o => o.id = id) with
    | some o => decide (n = if o.store then 0 else o.size)
    | none => true
  | .entry _ => decide (n = 0)

/-- The answer to a far request: an FRS, or an ABS. -/
def State.farAnswer (s : State) (tag : Nat) (ok : Bool) (data : List Word) : State :=
  match Tab.find s.tags tag with
  | none => s
  | some g =>
    if ok ∧ ¬ s.frsFits data.length g then s
    else
      let s : State := { s with tags := Tab.del s.tags tag }
      let s : State := match g with
        | .fill b wt ahead st =>
          let s := if ok then s.install b wt ahead st data else if ahead then s.count cFcPrefetchDrop 1 else s
          s.fillDone b wt ok data
        | .op id =>
          match s.farOps.find? (fun o => o.id = id) with
          | some o => if ok then (s.dropFar id).retire o.tid id data else s.farFail o
          | none => s
        | .entry m =>
          let s := m.ops.foldl (fun s id => s.retireAny id []) s
          if ok then s
          else (m.threads.foldl (fun s t => s.lateStore t (wd m.addr.toNat)) s).lateNotice m 0
      if s.runs then s.sendAhead else s

/-- FRS. -/
def execFrs (tag : BitVec 8) (status : BitVec 4) (data : List Word) (s : State) : Out :=
  .next (if data.length > 63 then s.discardLong
    else if ¬ s.live ∨ s.core = .clearing then s else s.farAnswer tag.toNat (status == 0) data)

end Sys2Proof.Machine
end

