-- ==== Sys2Proof/Machine/Resets.lean ====
section
/-!
DEFINITION. Power, the cold and the warm reset, readiness, and the end of a switch of ACLK (R26, R27, R456, R497, R500 to R507,
R509).
-/
namespace Sys2Proof.Machine

/-! ## Cold reset (R500, R501, R505) -/

/-- The identifier in the first two words of the TRIM_SI transfer; bits [15:8] of word 1 are zero (R27). -/
def identOf (w : List Word) : CoreId := BitVec.ofNat 24 (fld (w.getD 1 0) 7 0 * 65536 + (w.getD 0 0).toNat)

/-- The eight words of the trim set after the identifier; a word not received holds 0x0000 (R27, R500). -/
def trimOf (w : List Word) : Tab Word := (List.range 8).foldl (fun m i => Tab.set 0 m i (w.getD (2 + i) 0)) []

/-- The core in a cold reset: every item at its reset value, with the words of the TRIM_SI transfer; nothing is sent. -/
def State.coldReset (s : State) (w : List Word) : State :=
  { State.reset with
    pending := s.pending, pins := s.pins, gpOut := s.gpOut, trimSo := s.trimSo
    ident := identOf w, trim := trimOf w }

/-- The cold reset ends: ACLK starts from the understory root at DIV 2, and CDR-A is tried (R505). -/
def State.coldStart (s : State) : State :=
  { s with
    cycle := 0, mclk := 0, mclkFrac := 0
    clk := { s.clk with bringup := .tryA, tryCycles := 0 } }

/-- PWR_OK_FALL. -/
def execPwrOkFall (s : State) : Out :=
  .next (({ s with pins := { s.pins with pwrOk := false } }).coldReset [])

/-- PWR_OK_RISE: the core stays held while RST_COLD_N is asserted (R26). -/
def execPwrOkRise (s : State) : Out :=
  .next (if s.pins.pwrOk then s
    else
      let s : State := { s with pins := { s.pins with pwrOk := true } }
      if s.pins.rstColdN then s.coldStart else s)

/-- RST_COLD_N_ASSERT, with the words that the tract controller shifts in on TRIM_SI while it is asserted. -/
def execRstColdNAssert (trimSi : List Word) (s : State) : Out :=
  .next (({ s with pins := { s.pins with rstColdN := false } }).coldReset (if s.pins.pwrOk then trimSi else []))

/-- RST_COLD_N_RELEASE: CLKF_A and CLKF_B are sampled (R25), and the bring-up starts. -/
def execRstColdNRelease (clkfA clkfB : BitVec 3) (s : State) : Out :=
  .next (if s.pins.rstColdN then s
    else
      let s : State := { s with
        pins := { s.pins with rstColdN := true }
        clk := { s.clk with laneA := clkfA, laneB := clkfB } }
      if s.pins.pwrOk then s.coldStart else s)

/-- The core's ten identifier and trim words (R27). -/
def State.trimWords (s : State) : List Word := [idLo s.ident, idHi s.ident] ++ Tab.getList 0 s.trim 0 8

/-- TRIM_SO. -/
def execTrimSo (s : State) : Out := .next (if s.pins.pwrOk then { s with trimSo := s.trimWords } else s)

/-! ## Warm reset (R502, R503) -/

/-- A tag whose entry records no thread any more (R168). -/
def FarTag.forgetAll : FarTag → FarTag
  | .entry m => .entry { m with threads := [] }
  | x => x

/-- Steps 1 to 3 of R502: threads and lanes stop, packets that have not left are discarded, the Atpolet queue with them, and the
closing notices leave; no entry of the merging buffer records a thread any more (R168). In FAULTED the merging buffer is discarded with its notices (R503). -/
def State.warmBegin (s : State) (clear : Bool) (cmd : Option AtpCmd) : State :=
  let frozen := decide (s.core = .faulted)
  let s := ({ s with flumeOut := [] }).sendAllClosed 3
  let s := { s with
    gpOut := s.gpOut ++ s.flumeOut, flumeOut := [], notices := []
    ends := [], ringWrites := [], landWrites := []
    lanes := s.lanes.mapVal (fun _ => Lane.init), movTags := []
    farOps := [], ahead := none
    merge := s.merge.map (fun m : MergeEntry => { m with threads := [] })
    tags := s.tags.mapVal FarTag.forgetAll
    atpQ := [], atpCur := none, txn := none
    clk := { s.clk with selWait := none, freq := none }
    warm := some ⟨clear, cmd, 0, frozen⟩, warmDue := false }
  if frozen then { s.merge.foldl (fun s m => s.lateNotice m 0x01) s with merge := [] } else s

/-- Step 5 of R502: CLEARING. What R501 keeps is kept, everything else takes its reset value, READY.CLK and READY.FALL show the
clock in force (R505), and the reply leaves. -/
def State.warmClear (s : State) (w : Warm) : State :=
  let cdr := decide (s.clk.root < 2)
  let s' : State := { State.reset with
    pending := s.pending, pins := s.pins, gpOut := s.gpOut, trimSo := s.trimSo
    ident := s.ident, trim := s.trim, trimUser := s.trimUser
    clk := { s.clk with monitorOn := cdr, switch := none, queue := [], selWait := none, freq := none }
    mem := if w.clear then [] else s.mem
    notices := s.notices, noticeSeq := s.noticeSeq, faultLog := if w.clear then [] else s.faultLog
    ready := if cdr then 0x0002 else 0x0400
    nextId := s.nextId
    longClear := w.clear }
  match w.cmd with
  | some c => s'.reply c aDONE []
  | none => s'

/-- A far request tag of a merging-buffer entry. -/
def FarTag.isEntry : FarTag → Bool
  | .entry _ => true
  | _ => false

/-- Entries that were sent and are not answered. -/
def State.unanswered (s : State) : List MergeEntry :=
  s.tags.filterMap (fun e => match e.2 with
    | .entry m => some m
    | _ => none)

/-- WARM_DRAIN_COMPLETE: nothing of the merging buffer is left to send or to be answered. -/
def execWarmDrainComplete (s : State) : Out :=
  .next (if ¬ s.live then s
    else match s.warm with
      | none => s
      | some w => if s.merge = [] ∧ s.unanswered = [] then s.warmClear w else s)

/-- WARM_DRAIN_TIMEOUT: at the 256th cycle each entry that is left is reported. -/
def execWarmDrainTimeout (s : State) : Out :=
  .next (if ¬ s.live then s
    else match s.warm with
      | none => s
      | some w =>
        if w.age < 256 ∨ (s.merge = [] ∧ s.unanswered = []) then s
        else
          let s' := s.merge.foldl (fun s m => s.lateNotice m 0x01) s
          let s' := s.unanswered.foldl (fun s m => s.lateNotice m 0x02) s'
          s'.warmClear w)

/-- A warm reset is asked for: it begins at once, or when a switch in progress completes (R509). -/
def State.warmAsk (s : State) : State :=
  if s.warm.isSome then s
  else if s.live then s.warmBegin false none
  else { s with warmDue := true }

/-- RST_WARM_N_ASSERT: as CORE_RESET_WARM (R26); a cold reset governs. -/
def execRstWarmNAssert (s : State) : Out :=
  .next (if ¬ s.pins.rstWarmN then s
    else
      let s : State := { s with pins := { s.pins with rstWarmN := false } }
      if s.pins.pwrOk ∧ s.pins.rstColdN then s.warmAsk else s)

/-- RST_WARM_N_RELEASE: the times to readiness count from here (R502). -/
def execRstWarmNRelease (s : State) : Out :=
  .next (if s.pins.rstWarmN then s
    else
      let s : State := { s with pins := { s.pins with rstWarmN := true } }
      if s.core = .clearing ∧ s.warm.isNone then { s with cycle := 0, mclk := 0, mclkFrac := 0 } else s)

/-- CLOCK_SWITCH_COMPLETE: the first delivered cycle of the new clock (R497). A warm reset that waited for the switch begins. -/
def execClockSwitchComplete (s : State) : Out :=
  .next (if ¬ s.pins.pwrOk ∨ ¬ s.pins.rstColdN then s
    else match s.clk.switch with
      | none => s
      | some w =>
        let s := s.endSwitch w
        if s.warmDue ∧ s.clk.switch.isNone then s.warmBegin false none else s)

/-! ## Readiness (R504, R506) -/

/-- The READY bit of a function. -/
def readyBit : Fn → Nat
  | .atp => 0
  | .lm => 2
  | .fc => 3
  | .flm => 4
  | .skd => 5

/-- The time to readiness has passed since the release of the reset (R504): in MCLK cycles for Atpolet, else in ACLK cycles. -/
def State.fnDue (s : State) : Fn → Bool
  | .atp => decide (s.mclk ≥ 64)
  | .lm => decide (s.cycle ≥ (if s.longClear then 2048 else 16))
  | .fc => decide (s.cycle ≥ 64)
  | .flm => decide (s.cycle ≥ 32)
  | .skd => decide (s.cycle ≥ 16)

/-- The groups that failed the read-back of local memory: counted and reported (R506). -/
def State.readBack (s : State) : List (BitVec 14 × BitVec 4) → State
  | [] => s
  | (g, m) :: l =>
    (if m = 0 then s else (s.count cCruiseFound 1).notify nSCRUB [wd (4 * g.toNat), m.setWidth 16]).readBack l

/-- The five functions that IDLE waits for are ready (R450, R504). -/
def idleReady (r : Word) : Bool := r &&& 0x003D == 0x003D

/-- FUNCTION_READY; `failed` lists the groups, with their failing words, of a local memory that was cleared. -/
def execFunctionReady (f : Fn) (failed : List (BitVec 14 × BitVec 4)) (s : State) : Out :=
  .next (if ¬ s.live ∨ s.core ≠ .clearing ∨ s.warm.isSome ∨ ¬ s.pins.rstWarmN ∨ bit s.ready (readyBit f) ∨ ¬ s.fnDue f then s
    else
      let s := if f = .lm ∧ s.longClear then s.readBack failed else s
      let s := s.setReady (wd (2 ^ (readyBit f)))
      if idleReady s.ready then { s with core := .idle } else s)

/-- The core reports itself present to its grove router: powered, not in a cold reset, from IDLE on (R507). -/
def State.present (s : State) : Bool := s.pins.pwrOk && s.pins.rstColdN && decide (s.core ≠ .clearing)

end Sys2Proof.Machine
end

