-- ==== Sys2Proof/Machine/Atpolet.lean ====
section
/-!
DEFINITION. The Atpolet port: arrival and queue (R447, R448), the order of the checks (R449 to R455), and the opcodes about the
core, its counters, its clocks, its trim set and its resets (file 15).
-/
namespace Sys2Proof.Machine

/-! ## Codes (R450) -/

def CoreSt.code : CoreSt → Nat
  | .clearing => 0
  | .idle => 1
  | .loading => 2
  | .loaded => 3
  | .running => 4
  | .faulted => 5

def ThSt.code : ThSt → Nat
  | .empty => 0
  | .ready => 1
  | .running => 2
  | .parked => 3
  | .halted => 4
  | .felled => 5

/-! ## Opcodes (R452, R454) -/

def oIDENT : Nat := 0x01
def oSTATUS : Nat := 0x02
def oLOAD_BEGIN : Nat := 0x10
def oLOAD_WRITE : Nat := 0x11
def oLOAD_END : Nat := 0x12
def oTHREAD_START : Nat := 0x18
def oTHREAD_STOP : Nat := 0x19
def oTHREAD_RESET : Nat := 0x1A
def oTHREAD_RESUME : Nat := 0x1B
def oTXN_BEGIN : Nat := 0x20
def oTXN_SET : Nat := 0x21
def oTXN_COMMIT : Nat := 0x22
def oTXN_ROLLBACK : Nat := 0x23
def oFLUME_BIND : Nat := 0x28
def oFLUME_UNBIND : Nat := 0x29
def oDBG_HALT : Nat := 0x30
def oDBG_STEP : Nat := 0x31
def oDBG_READ : Nat := 0x32
def oDBG_WRITE : Nat := 0x33
def oDBG_BREAK : Nat := 0x34
def oDBG_WATCH : Nat := 0x35
def oMEM_READ : Nat := 0x40
def oMEM_WRITE : Nat := 0x41
def oTALLY_READ : Nat := 0x48
def oFAULT_LOG_READ : Nat := 0x49
def oLASTGASP_READ : Nat := 0x4A
def oCLOCK_SELECT : Nat := 0x50
def oCLOCK_DIVIDE : Nat := 0x51
def oFREQ_MEASURE : Nat := 0x52
def oTRIM_READ : Nat := 0x58
def oTRIM_WRITE : Nat := 0x59
def oCORE_RESET_WARM : Nat := 0x7E
def oCORE_CLEAR : Nat := 0x7F

/-- How a core state treats an opcode (R452). -/
inductive Treat where
  | a | r | b | f
  deriving DecidableEq, Repr

/-- The treatments in CLEARING, IDLE, LOADING, LOADED, RUNNING and FAULTED, and the fewest and most parameter words; none for an
opcode that the table does not list (R452, R454). -/
def opcodeRow (op : Nat) : Option (List Treat × Nat × Nat) :=
  let all : List Treat := [.a, .a, .a, .a, .a, .a]
  let img : List Treat := [.r, .r, .r, .a, .a, .f]
  let clk : List Treat := [.b, .a, .a, .a, .a, .a]
  match op with
  | 0x01 => some (all, 0, 0)
  | 0x02 => some (all, 0, 0)
  | 0x10 => some ([.b, .a, .a, .r, .r, .f], 10, 10)
  | 0x11 => some ([.r, .r, .a, .r, .r, .f], 3, 60)
  | 0x12 => some ([.r, .r, .a, .r, .r, .f], 0, 0)
  | 0x18 => some (img, 1, 1)
  | 0x19 => some (img, 2, 2)
  | 0x1A => some (img, 1, 1)
  | 0x1B => some (img, 1, 1)
  | 0x20 => some (img, 0, 0)
  | 0x21 => some (img, 2, 60)
  | 0x22 => some (img, 1, 1)
  | 0x23 => some (img, 0, 0)
  | 0x28 => some (img, 7, 7)
  | 0x29 => some (img, 1, 1)
  | 0x30 => some (img, 1, 1)
  | 0x31 => some (img, 1, 1)
  | 0x32 => some ([.r, .r, .r, .a, .a, .a], 4, 4)
  | 0x33 => some (img, 4, 60)
  | 0x34 => some (img, 2, 2)
  | 0x35 => some (img, 3, 3)
  | 0x40 => some (clk, 2, 2)
  | 0x41 => some ([.b, .a, .a, .a, .a, .f], 2, 60)
  | 0x48 => some (all, 2, 2)
  | 0x49 => some (all, 2, 2)
  | 0x4A => some (all, 1, 1)
  | 0x50 => some (clk, 1, 1)
  | 0x51 => some (clk, 1, 1)
  | 0x52 => some (clk, 1, 1)
  | 0x58 => some (all, 0, 0)
  | 0x59 => some (clk, 8, 8)
  | 0x7E => some (all, 0, 0)
  | 0x7F => some (all, 0, 0)
  | _ => none

/-! ## The checks of R449 -/

/-- A refusal: a status and its results. -/
abbrev Ref := Nat × List Word

/-- Parameter words of a command. -/
def AtpCmd.params (c : AtpCmd) : List Word := c.payload.drop 4

/-- BAD_PARAM of step 5: the index of the parameter word and a configuration address. -/
def badParam (i : Nat) (addr : Word) : Ref := (aBAD_PARAM, [wd i, addr])

/-- Step 2: reserved bits, CLR and the count. -/
def AtpCmd.formBad (c : AtpCmd) : Bool :=
  decide (fld (c.word 0) 15 11 ≠ 0) || (bit (c.word 0) 10 && decide (c.opcode ≠ oTALLY_READ)) || decide (c.count > 60) ||
    decide (c.count + 4 ≠ c.payload.length)

/-- Step 3: the core state. -/
def State.treat (s : State) (tr : List Treat) : Option Ref :=
  let st := wd s.core.code
  match tr.getD s.core.code .r with
  | .a => none
  | .r => some (aREFUSED, [st])
  | .b => some (aBUSY, [st])
  | .f => some (aFAULTED, [st, s.faultCause.setWidth 16])

/-- Whether the open transaction has staged an address in a range. -/
def State.staged (s : State) (lo n : Nat) : Bool :=
  match s.txn with
  | some m => m.any (fun e => decide (lo ≤ e.1) && decide (e.1 < lo + n))
  | none => false

/-- Step 4: the rules of transactions (R469, R470). -/
def State.txnRule (s : State) (c : AtpCmd) : Option Ref :=
  let op := c.opcode
  let p0 := (c.p 0).toNat
  if op = oTXN_BEGIN then (if s.txn.isSome then some (aTXN_OPEN, []) else none)
  else if op = oTXN_SET ∨ op = oTXN_COMMIT ∨ op = oTXN_ROLLBACK then (if s.txn.isNone then some (aNO_TXN, []) else none)
  else if op = oFLUME_BIND ∨ op = oFLUME_UNBIND then
    (if p0 < 32 ∧ c.params ≠ [] ∧ s.staged (0x0100 + 8 * p0) 8 then some (aTXN_OPEN, []) else none)
  else if op = oCLOCK_DIVIDE then (if s.staged 0x0610 1 then some (aTXN_OPEN, []) else none)
  else if op = oTHREAD_START ∨ op = oTHREAD_RESET then
    (if p0 < 64 ∧ c.params ≠ [] ∧ s.staged (0x1000 + 16 * p0) 16 then some (aTXN_OPEN, []) else none)
  else none

/-- The parameter count of step 5. -/
def AtpCmd.countBad (c : AtpCmd) (lo hi : Nat) : Option Ref :=
  let n := c.params.length
  if n < lo then some (badParam n 0xFFFF) else if n > hi then some (badParam hi 0xFFFF) else none

/-- Steps 1 to 4 of R449 and the parameter count of step 5. -/
def State.atpCheck (s : State) (c : AtpCmd) : Option Ref :=
  match opcodeRow c.opcode with
  | none => some (aUNKNOWN, [])
  | some (tr, lo, hi) =>
    if c.formBad then some (aBAD_PARAM, [0xFFFF])
    else
      match s.treat tr with
      | some r => some r
      | none =>
        match s.txnRule c with
        | some r => some r
        | none => c.countBad lo hi

/-- The oldest queued command starts when its opcode is `op` and none is in execution (R448). A refused command has no effect
and is answered (R449); `run` is given the command after the checks that every opcode shares. -/
def atpStart (op : Nat) (s : State) (run : AtpCmd → State → State) : Out :=
  .next (if ¬ s.live ∨ s.warm.isSome ∨ s.atpCur.isSome then s
    else match s.atpQ with
      | [] => s
      | c :: q =>
        if c.opcode ≠ op then s
        else
          let s' := { s with atpQ := q }
          match s'.atpCheck c with
          | some (st, r) => s'.reply c st r
          | none => run c s')

/-- Steps 5 and 6 of an opcode, then its execution. -/
def orRefuse (c : AtpCmd) (s : State) (ref : Option Ref) (k : State) : State :=
  match ref with
  | some (st, r) => s.reply c st r
  | none => k

/-- DONE with results. -/
def State.done (s : State) (c : AtpCmd) (r : List Word) : State := s.reply c aDONE r

/-- A parameter outside its range (R455). -/
def orBad (bad : Bool) (i : Nat) : Option Ref := if bad then some (badParam i 0xFFFF) else none

/-! ## Arrival (R447, R448) -/

/-- A payload that is no command (R33, R447): one with REPLY or NOTICE set. A short one is a command, whose missing words read as 0
and whose COUNT cannot fit (R449). -/
def notCommand (p : List Word) : Bool := decide (fld (p.getD 0 0) 9 8 ≠ 0)

/-- ATP_ARRIVAL. -/
def execAtpArrival (src : CoreId) (payload : List Word) (s : State) : Out :=
  .next (if payload.length > 64 then s.discardLong
    else if ¬ s.live ∨ s.warm.isSome ∨ ¬ bit s.ready 0 then s
    else if notCommand payload then s.count cMalformed 1
    else if s.atpQ.length ≥ 8 then s.reply ⟨src, payload⟩ aBUSY []
    else { s with atpQ := s.atpQ ++ [⟨src, payload⟩] })

/-- UNKNOWN_OPCODE: the oldest queued command has an opcode that the table does not list. -/
def execUnknownOpcode (s : State) : Out :=
  .next (if ¬ s.live ∨ s.warm.isSome ∨ s.atpCur.isSome then s
    else match s.atpQ with
      | [] => s
      | c :: q => if (opcodeRow c.opcode).isSome then s else ({ s with atpQ := q }).reply c aUNKNOWN [])

/-! ## The core (R454) -/

/-- IDENT. -/
def execIdent (s : State) : Out :=
  atpStart oIDENT s (fun c s => s.done c [idLo s.ident, idHi s.ident, 0x0482, Config.revision])

/-- Thread states, four to a word (R454). -/
def State.threadStates (s : State) : List Word :=
  (List.range 16).map (fun k =>
    let st (i : Nat) : Nat := (s.thr (4 * k + i)).st.code
    wd (st 0 + 16 * st 1 + 256 * st 2 + 4096 * st 3))

/-- STATUS. -/
def execStatus (s : State) : Out :=
  atpStart oSTATUS s (fun c s =>
    s.done c ([wd (s.core.code + 8 * b2n s.txn.isSome + 16 * b2n s.trimUser + 32 * fld (Tab.get 0 s.decl 0) 1 0), s.ready,
      s.noticeSeq] ++ s.threadStates))

/-! ## Counters and logs (R482, R483, R434) -/

/-- The counter indexes that R482 lists. -/
def tallyListed (i : Nat) : Bool :=
  decide (i ≤ 0x05) || (decide (0x08 ≤ i) && decide (i ≤ 0x0D)) || (decide (0x10 ≤ i) && decide (i ≤ 0x13)) ||
    (decide (0x18 ≤ i) && decide (i ≤ 0x1D)) || (decide (0x20 ≤ i) && decide (i ≤ 0x24)) ||
    (decide (0x28 ≤ i) && decide (i ≤ 0x2C))

/-- TALLY_READ. -/
def execTallyRead (s : State) : Out :=
  atpStart oTALLY_READ s (fun c s =>
    let lo := (c.p 0).toNat
    let n := (c.p 1).toNat
    orRefuse c s (orBad (decide (n = 0) || decide (n > 48)) 1)
      (let vals := (List.range n).map (fun i => if tallyListed (lo + i) then Tab.get 0 s.tally (lo + i) else 0)
       let s := if bit (c.word 0) 10 then s.clearCounts lo (lo + n - 1) else s
       s.done c (wd n :: vals)))

/-- FAULT_LOG_READ. -/
def execFaultLogRead (s : State) : Out :=
  atpStart oFAULT_LOG_READ s (fun c s =>
    let n := (c.p 1).toNat
    orRefuse c s (orBad (decide (n = 0) || decide (n > 4)) 1)
      (s.done c ((List.range n).flatMap (fun i => s.faultLog.getD ((c.p 0).toNat + i) (List.replicate 12 0)))))

/-- LASTGASP_READ. -/
def execLastgaspRead (s : State) : Out :=
  atpStart oLASTGASP_READ s (fun c s =>
    orRefuse c s (orBad (decide ((c.p 0).toNat ≥ s.nThr)) 0)
      (s.done c (Tab.getList 0 (s.thr (c.p 0).toNat).lastgasp 0 8)))

/-! ## Clocks (R489, R494 to R496, R499) -/

/-- The lane selects after a CLOCK_SELECT that names source `n`: that of a CDR which is the root and is named stays (R494). -/
def Clk.sample (k : Clk) (n : Nat) (a b : BitVec 3) : Clk :=
  { k with laneA := if n = 0 ∧ k.root = 0 then k.laneA else a, laneB := if n = 1 ∧ k.root = 1 then k.laneB else b }

/-- The selection of a source (R494). -/
def State.selectClock (s : State) (c : AtpCmd) (n : Nat) : State :=
  let k := s.clk
  if n = k.root then
    (if n = 2 then s else { s with clk := { k with monitorOn := true } }).done c [wd k.root]
  else
    let s := { s with atpCur := some (c, .clock) }
    if n = 2 then
      (({ s with clk := { k with selUnder := true } }).setFall true).requestSwitch ⟨2, 2, 0, none, true, false⟩
    else { s with clk := { k with selWait := some n, monitorOn := decide (k.root < 2) } }

/-- CLOCK_SELECT, with CLKF_A and CLKF_B as they stand (R25). -/
def execClockSelect (clkfA clkfB : BitVec 3) (s : State) : Out :=
  atpStart oCLOCK_SELECT s (fun c s =>
    orRefuse c s (orBad (decide ((c.p 0).toNat > 2)) 0)
      (({ s with clk := s.clk.sample (c.p 0).toNat clkfA clkfB }).selectClock c (c.p 0).toNat))

/-- CLOCK_DIVIDE. -/
def execClockDivide (s : State) : Out :=
  atpStart oCLOCK_DIVIDE s (fun c s =>
    let d := (c.p 0).toNat
    orRefuse c s (orBad (decide (d < 2) || decide (d > 4)) 0)
      (({ s with atpCur := some (c, .clock) }).requestSwitch ⟨1, 0, d, none, true, false⟩))

/-- FREQ_MEASURE: BUSY while a count is in progress (R455). -/
def execFreqMeasure (s : State) : Out :=
  atpStart oFREQ_MEASURE s (fun c s =>
    orRefuse c s (orBad (!freqOk (c.p 0)) 0)
      (if s.clk.freq.isSome then s.reply c aBUSY []
       else { s with atpCur := some (c, .freq), clk := { s.clk with freq := some ⟨none, c.p 0, false, 0, 0, 0⟩ } }))

/-! ## The trim set (R485) -/

/-- TRIM_READ. -/
def execTrimRead (s : State) : Out :=
  atpStart oTRIM_READ s (fun c s => s.done c (Tab.getList 0 s.trim 0 8 ++ [wd (b2n s.trimUser)]))

/-- TRIM_WRITE. -/
def execTrimWrite (s : State) : Out :=
  atpStart oTRIM_WRITE s (fun c s =>
    orRefuse c s (orBad (decide (fld (c.p 3) 4 0 = 0)) 3)
      (if bit s.ready 10 ∧ fld (c.p 0) 11 0 ≠ fld (Tab.get 0 s.trim 0) 11 0 then s.reply c aDENIED []
       else ({ s with trim := (List.range 8).foldl (fun m i => Tab.set 0 m i (c.p i)) s.trim, trimUser := true }).done c []))

/-! ## Resets (R456) -/

/-- CORE_RESET_WARM: the reply leaves when the core enters CLEARING. -/
def execCoreResetWarm (s : State) : Out := atpStart oCORE_RESET_WARM s (fun c s => s.warmBegin false (some c))

/-- CORE_CLEAR. -/
def execCoreClear (s : State) : Out := atpStart oCORE_CLEAR s (fun c s => s.warmBegin true (some c))

end Sys2Proof.Machine
end

