-- ==== Sys2Proof/Machine/Image.lean ====
section
/-!
DEFINITION. Loading an image (R460 to R463), the consistency of a configuration (R147, R277, R355, R384, R413, R435, R458),
transactions (R464 to R471, R280), and the binding of flume ends (R355, R375).
-/
namespace Sys2Proof.Machine

/-! ## Stage 1: the declaration against the capacities (R461, R463) -/

/-- The NO_FIT code of the first declared resource that exceeds its capacity. -/
def noFit (d : Nat → Word) : Option Nat :=
  let n := 8 * 2 ^ fld (d 0) 1 0
  let thr := fld (d 0) 8 2
  if thr > n then some 0x01
  else if fld (d 1) 4 0 > 16 then some 0x02
  else if fld (d 1) 9 5 > 8 then some 0x03
  else if fld (d 2) 7 0 > 16 then some 0x04
  else if fld (d 3) 7 0 > 32 then some 0x05
  else if (d 4).toNat > 256 * (d 5).toNat ∨ (d 5).toNat > 256 then some 0x06
  else if fld (d 6) 7 0 > 16 ∨ fld (d 6) 15 8 > 16 then some 0x07
  else if fld (d 7) 7 0 > 64 ∨ fld (d 7) 15 8 > 64 then some 0x08
  else if fld (d 8) 7 0 > 64 then some 0x09
  else if fld (d 9) 2 0 > 4 then some 0x0A
  else if bit (d 9) 10 ∧ fld (d 9) 9 3 ≥ thr then some 0x0B
  else none

/-! ## Stage 2: the items against the declaration (R461) -/

/-- The first of `l` that takes the count of those satisfying `p` past `n`. -/
def pastCount (l : List Nat) (p : Nat → Bool) (n : Nat) : Option Nat := (l.filter p)[n]?

/-- The first tile that takes the count of its owner past `n`. -/
def pastOwner (c : Tab Word) (n : Nat) : Option Nat :=
  (List.range 16).find? (fun p =>
    match tileOwner c p with
    | none => false
    | some o => decide (((List.range p).filter (fun q => tileOwner c q == some o)).length ≥ n))

/-- An item that exceeds the declaration: its configuration address and the index of the declaring parameter word. -/
def excess (c : Tab Word) (d : Nat → Word) : List (Nat × Nat) :=
  let n := 8 * 2 ^ fld (d 0) 1 0
  let find (l : List Nat) (p : Nat → Bool) (k : Nat) (addr : Nat → Nat) (i : Nat) : List (Nat × Nat) :=
    ((pastCount l p k).map (fun x => (addr x, i))).toList
  let decl (t : Nat) : Bool := bit (declW c t 0) 13
  find (List.range 16) (fun k => fld (cmpW1 c k) 15 13 ≠ 0) (fld (d 2) 7 0) (2 * ·) 2 ++
  find (List.range 32) (fun e => bit (endW c e 6) 0) (fld (d 3) 7 0) (fun e => 0x0100 + 8 * e) 3 ++
  find (List.range 4) (laneEn c) (fld (d 9) 2 0) (0x0200 + ·) 9 ++
  (if shareCount c 0 > fld (d 6) 7 0 then [(0x0300, 6)] else []) ++
  (if shareCount c 1 > fld (d 6) 15 8 then [(0x0320, 6)] else []) ++
  find (List.range 64) (fun g => bit (gateW c false g 1) 0) (fld (d 7) 7 0) (fun g => 0x0400 + 2 * g) 7 ++
  find (List.range 64) (fun g => bit (gateW c true g 1) 0) (fld (d 7) 15 8) (fun g => 0x0480 + 2 * g) 7 ++
  find ((List.range 64).map (· + 64)) (fun g => hgSvc (hgateW c g 0) ≠ 0) (fld (d 8) 7 0) (fun g => 0x0500 + 3 * (g - 64)) 8 ++
  find (List.range 16) (fun p => (tileOwner c p).isSome) (fld (d 1) 4 0) (0x0600 + ·) 1 ++
  ((pastOwner c (fld (d 1) 9 5)).map (fun p => (0x0600 + p, 1))).toList ++
  find (List.range 64) decl (fld (d 0) 8 2) (fun t => 0x1000 + 16 * t) 0 ++
  (((List.range 64).find? (fun t => decl t && decide (t ≥ n))).map (fun t => (0x1000 + 16 * t, 0))).toList

/-- The first item, by configuration address, that exceeds the declaration. -/
def stage2 (c : Tab Word) (d : Nat → Word) : Option Ref :=
  ((excess c d).foldl (fun b x => match b with
    | none => some x
    | some y => if x.1 < y.1 then some x else some y) none).map (fun x => (aBAD_PARAM, [wd x.2, wd x.1]))

/-! ## Stage 3: consistency -/

/-- R147: the entry is refused. -/
def cmpBad (c : Tab Word) (n : Nat) : Bool :=
  let lo (k : Nat) : Nat := fld (cmpW0 c k) 7 0
  let hi (k : Nat) : Nat := fld (cmpW0 c k) 15 8
  let perm (k : Nat) : Bool := fld (cmpW1 c k) 15 13 ≠ 0
  perm n && (decide (hi n < lo n) ||
    (List.range 16).any (fun k =>
      decide (k ≠ n) && perm k && decide (lo k ≤ hi k) && decide (lo n ≤ hi k) && decide (lo k ≤ hi n) &&
        decide (fld (cmpW1 c k) 12 0 ≠ fld (cmpW1 c n) 12 0)))

/-- Problem slots of a mode (R276). -/
def modeSlots (m : Nat) : Nat := if m = 1 then 2 else if m = 2 then 4 else 1

/-- R277: the status that refuses the share table of array `a`. -/
def shareBad (c : Tab Word) (a n : Nat) : Option Ref :=
  let cnt := shareCount c a
  let slots := modeSlots (shareMode c a)
  let addr := 0x0300 + 0x20 * a
  if cnt > 16 then some (aNO_FIT, [7])
  else if shareMode c a = 3 ||
      (List.range cnt).any (fun e => decide (entTid c a e ≥ n) || decide (entProb c a e ≥ slots)) ||
      (List.range 4).any (fun s =>
        match chainHolder c a s with
        | none => false
        | some t => decide (t ≥ n) || decide (s ≥ slots) ||
            !(List.range cnt).any (fun e => decide (entTid c a e = t) && decide (entProb c a e = s)))
  then some (aBAD_PARAM, [0xFFFF, wd addr])
  else none

/-- World and tenant tag that a configuration declares for a thread (R405). -/
def declWt (c : Tab Word) (t : Nat) : WT := (declW c t 0).setWidth 13

/-- First and last word of a ring. -/
def ringLo (c : Tab Word) (e : Nat) : Nat := endRbase c e
def ringHi (c : Tab Word) (e : Nat) : Nat := endRbase c e + endC c e * endStride c e - 1

/-- A bound ring receive end. -/
def isRing (c : Tab Word) (bound : Nat → Bool) (e : Nat) : Bool := bound e && !endDir c e && !endTile c e

/-- R355: the end is refused, among the ends that `bound` names. -/
def endBad (c : Tab Word) (ident : CoreId) (n : Nat) (bound : Nat → Bool) (e : Nat) : Bool :=
  decide (endOwner c e ≥ n) || decide (endCred0 c e > 64) ||
  if endDir c e then
    let r := endPend c e
    decide (endStall c e < 10) || decide (endStall c e > 30) ||
      (endPeer c e == ident && bound r && !endDir c r &&
        ((if endTile c r then decide (endCred0 c e ≠ 0) else decide (endCred0 c e > endC c r)) ||
          decide (endMaxlen c e ≠ endMaxlen c r)))
  else if endTile c e then false
  else
    !oneCovers c (declWt c (endOwner c e)) (ringLo c e) (ringHi c e) ||
      (List.range 32).any (fun f =>
        decide (f < e) && isRing c bound f && decide (ringLo c e ≤ ringHi c f) && decide (ringLo c f ≤ ringHi c e))

/-- The first of the given ends that is refused. -/
def endsBad (c : Tab Word) (ident : CoreId) (n : Nat) (bound : Nat → Bool) : Option Nat :=
  (List.range 32).find? (fun e => bound e && endBad c ident n bound e)

/-- R413: the hardware gate entry is refused. -/
def hgBad (c : Tab Word) (g : Nat) : Bool := decide (hgSvc (hgateW c g 0) = 7) || (hgateW c g 2).ult (hgateW c g 1)

/-- Stage 3 in the order of its rules: R147, R277, R355, R384, R413, R435, R458. -/
def stage3 (c : Tab Word) (ident : CoreId) (n : Nat) (warden : Option Nat) (bound : Nat → Bool) : Option Ref :=
  let bad (a : Nat) : Option Ref := some (aBAD_PARAM, [0xFFFF, wd a])
  match (List.range 16).find? (cmpBad c) with
  | some k => bad (2 * k)
  | none =>
  match shareBad c 0 n with
  | some r => some r
  | none =>
  match shareBad c 1 n with
  | some r => some r
  | none =>
  match endsBad c ident n bound with
  | some e => bad (0x0100 + 8 * e)
  | none =>
  match (List.range 4).find? (fun k => decide (laneOwner c k ≥ n)) with
  | some k => bad (0x0200 + k)
  | none =>
  match (List.range 64).find? (fun g => hgBad c (g + 64)) with
  | some g => bad (0x0500 + 3 * g)
  | none =>
  match warden.filter (fun t => bit (declW c t 0) 12) with
  | some t => bad (0x1000 + 16 * t)
  | none =>
    let div := fld (cfgAt c 0x0610) 2 0
    if div < 2 ∨ div > 4 then bad 0x0610 else none

/-! ## Loading (R460 to R462) -/

/-- LOAD_BEGIN. -/
def execLoadBegin (s : State) : Out :=
  atpStart oLOAD_BEGIN s (fun c s =>
    ({ s with
      core := .loading, image := [], clkWritten := false
      declNew := (List.range 10).foldl (fun m i => Tab.set 0 m i (c.p i)) [] }).done c [])

/-- Writes words at consecutive configuration addresses. -/
def cfgWrites (m : Tab Word) (a : Nat) : List Word → Tab Word
  | [] => m
  | w :: ws => cfgWrites (cfgWrite m a w) (a + 1) ws

/-- The first of `n` addresses from `a` that fails a test. -/
def firstNot (ok : Nat → Bool) (a n : Nat) : Option Nat := ((List.range n).map (a + ·)).find? (fun x => !ok x)

/-- LOAD_WRITE. -/
def execLoadWrite (s : State) : Out :=
  atpStart oLOAD_WRITE s (fun c s =>
    let a := (c.p 1).toNat
    let ws := c.params.drop 2
    if (c.p 0).toNat > 1 then orRefuse c s (some (badParam 0 0xFFFF)) s
    else if c.p 0 = 0 then
      orRefuse c s (orBad (decide (a + ws.length > 65536)) 1) ((s.msetList a ws).done c [])
    else
      match firstNot cfgHas a ws.length with
      | some x => orRefuse c s (some (badParam 1 (wd x))) s
      | none =>
        ({ s with
          image := cfgWrites s.image a ws
          clkWritten := s.clkWritten || (decide (a ≤ 0x0610) && decide (0x0610 < a + ws.length)) }).done c [])

/-- The three stages of LOAD_END. A share table of more than 16 entries exceeds every declaration that stage 1 lets pass, so that stage 2
refuses it before the NO_FIT of R277, which is of stage 3 (R461, log entry 35). -/
def State.loadRefusal (s : State) : Option Ref :=
  let d (i : Nat) : Word := Tab.get 0 s.declNew i
  match noFit d with
  | some k => some (aNO_FIT, [wd k])
  | none =>
  match stage2 s.image d with
  | some r => some r
  | none =>
    stage3 s.image s.ident (8 * 2 ^ fld (d 0) 1 0) (if bit (d 9) 10 then some (fld (d 9) 9 3) else none)
      (fun e => bit (endW s.image e 6) 0)

/-- A thread with its world and tenant tag (R405, R459). -/
def Thread.setWt (th : Thread) (w : Word) : Thread :=
  let wt := w.toNat % 0x2000
  (th.setCtl iTTAG (wd wt)).setCtl iPSW (wd (th.psw.toNat % 0x1000 + wt / 0x1000 * 0x1000))

/-- A declared thread: READY (R462). -/
def readyThread (c : Tab Word) (t : Nat) : Thread := { Thread.init.setWt (declW c t 0) with st := .ready }

/-- A clock item begins its switch (R489, R496). -/
def State.clkItem (s : State) : State := s.requestSwitch ⟨1, 0, fld (cfgAt s.cfg 0x0610) 2 0, none, false, false⟩

/-- The accepted image takes effect (R42, R462). -/
def State.loadAccept (s : State) : State :=
  let c := s.image
  let s := { s with
    core := .loaded, cfg := c, decl := s.declNew, slotCtr := 0
    threads := ((List.range 64).filter (fun t => bit (declW c t 0) 13)).map (fun t => (t, readyThread c t)) }
  let s := (List.range 32).foldl (fun s e => if bit (endW c e 6) 0 then s.openEnd e else s) s
  if s.clkWritten then s.clkItem else s

/-- LOAD_END. -/
def execLoadEnd (s : State) : Out :=
  atpStart oLOAD_END s (fun c s => orRefuse c s s.loadRefusal (s.loadAccept.done c []))

/-! ## Transactions (R464 to R468) -/

/-- TXN_BEGIN. -/
def execTxnBegin (s : State) : Out := atpStart oTXN_BEGIN s (fun c s => ({ s with txn := some [] }).done c [])

/-- Stages words at consecutive addresses. -/
def stageWords (m : Tab Word) (a : Nat) : List Word → Tab Word
  | [] => m
  | w :: ws => stageWords (Tab.put m a w) (a + 1) ws

/-- TXN_SET: staging holds 256 words. -/
def execTxnSet (s : State) : Out :=
  atpStart oTXN_SET s (fun c s =>
    let a := (c.p 0).toNat
    let ws := c.params.drop 1
    match firstNot cfgStageable a ws.length with
    | some x => orRefuse c s (some (badParam 0 (wd x))) s
    | none =>
      let m := stageWords (s.txn.getD []) a ws
      if m.length > 256 then s.reply c aNO_FIT [0x0C] else ({ s with txn := some m }).done c [])

/-- TXN_ROLLBACK. -/
def execTxnRollback (s : State) : Out := atpStart oTXN_ROLLBACK s (fun c s => ({ s with txn := none }).done c [])

/-- The configuration that would result (R467). -/
def State.result (s : State) : Tab Word := (s.txn.getD []).foldl (fun m e => cfgWrite m e.1 e.2) s.cfg

/-- The end is bound in the configuration that would result (R355, R465). -/
def State.boundAfter (s : State) (e : Nat) : Bool :=
  if s.staged (0x0100 + 8 * e) 8 then bit (endW s.result e 6) 0 else decide ((s.fend e).st ≠ .unbound)

/-- The threads that a share table names (R466). -/
def shareThreads (c : Tab Word) (a : Nat) : List Nat :=
  (List.range (min (shareCount c a) 16)).map (entTid c a) ++ (List.range 4).filterMap (chainHolder c a)

/-- The threads that the open transaction affects (R466). -/
def State.affected (s : State) : List Nat :=
  let c := s.cfg
  let r := s.result
  (List.range 64).filter (fun t =>
    let wt := (s.thr t).wt
    s.staged (0x1000 + 16 * t) 16 ||
    (List.range 16).any (fun n =>
      s.staged (2 * n) 2 && (decide (fld (cmpW1 c n) 12 0 = wt.toNat) || decide (fld (cmpW1 r n) 12 0 = wt.toNat))) ||
    (List.range 16).any (fun p => s.staged (0x0600 + p) 1 && (tileOwner c p == some t || tileOwner r p == some t)) ||
    (List.range 2).any (fun a =>
      s.staged (0x0300 + 0x20 * a) 21 && ((shareThreads c a).contains t || (shareThreads r a).contains t)) ||
    (List.range 32).any (fun e =>
      s.staged (0x0100 + 8 * e) 8 && (decide (endOwner c e = t) || decide (endOwner r e = t))) ||
    (List.range 4).any (fun n => s.staged (0x0200 + n) 1 && (decide (laneOwner c n = t) || decide (laneOwner r n = t))))

/-- Pending classes of a thread (R475): classes 1 to 6, an unacknowledged far store, a running lane descriptor. -/
def State.pendClasses (s : State) (t : Nat) : Nat :=
  let th := s.thr t
  ((List.range 6).map (· + 1)).foldl (fun m c => if th.ops.any (fun o => o.cls = c) then m + 2 ^ c else m) 0 +
    (if th.ops.any (fun o => decide (o.cls = 2) && o.store) then 0x80 else 0) +
    (if (List.range 4).any (fun n =>
        decide (laneOwner s.cfg n = t) && decide ((s.lane n).st = .running) && decide ((s.lane n).phase ≠ .takeUp))
      then 0x100 else 0)

/-- The affected threads with something pending. -/
def State.commitBusy (s : State) : List Nat := s.affected.filter (fun t => s.pendClasses t ≠ 0)

/-- Marks the threads that wait at issue for a commit (R467). -/
def State.setHolds (s : State) (ts : List Nat) : State :=
  ts.foldl (fun s t => if (s.thr t).st = .empty then s else s.modThr t (fun th => { th with commitHold := true })) s

def State.clearHolds (s : State) : State :=
  { s with threads := s.threads.mapVal (fun th : Thread => { th with commitHold := false }) }

/-- TXN_COMMIT. -/
def execTxnCommit (s : State) : Out :=
  atpStart oTXN_COMMIT s (fun c s =>
    orRefuse c s (orBad (decide (c.p 0 = 0)) 0)
      (orRefuse c s (stage3 s.result s.ident s.nThr s.warden s.boundAfter)
        (({ s with atpCur := some (c, .commit (s.mclk + (c.p 0).toNat)) }).setHolds s.affected)))

/-! ## The commit cycle (R151, R220, R280, R399, R459, R465, R468) -/

/-- The entries of a thread in a share table. -/
def entriesOf (c : Tab Word) (a t : Nat) : List (Nat × Nat) :=
  ((List.range (min (shareCount c a) 16)).filter (fun e => entTid c a e = t)).map (fun e => (e, entProb c a e))

/-- The entries of a slot, with their threads. -/
def slotTable (c : Tab Word) (a p : Nat) : List (Nat × Nat) := (slotEntries c a p).map (fun e => (e, entTid c a e))

/-- An array after its share table changes from `c` to `r` (R280). -/
def Arr.reshare (x : Arr) (c r : Tab Word) (a : Nat) : Arr :=
  if shareMode c a ≠ shareMode r a then { x with recs := [], chains := [], chainBufs := [], ptr := [] }
  else
    let slotGone (p : Nat) : Bool := chainHolder c a p != chainHolder r a p
    let thrGone (t : Nat) : Bool := entriesOf c a t != entriesOf r a t
    { x with
      recs := x.recs.filter (fun e => !slotGone e.1 && !thrGone e.2.owner)
      chains := x.chains.filter (fun e => !slotGone e.1 && !thrGone e.2.holder)
      chainBufs := x.chainBufs.filter (fun e => !slotGone e.1 && !thrGone e.2.tid)
      ptr := x.ptr.filter (fun e => !slotGone e.1 && slotTable c a e.1 == slotTable r a e.1) }

/-- Staged share tables (R280). -/
def State.commitShares (s : State) (r : Tab Word) : State :=
  (List.range 2).foldl (fun s a =>
    if s.staged (0x0300 + 0x20 * a) 21 then s.modArr a (fun x => x.reshare s.cfg r a) else s) s

/-- A tile whose thread changes is cleared (R220), and an armed landing on it closes with the messages on their way to it (R217,
R374). -/
def State.reallot (s : State) (p : Nat) : State :=
  let s := (List.range 32).foldl (fun s e =>
    let x := s.fend e
    if ¬ (x.armed ∧ x.phys = p) then s
    else if x.st = .opened then s.closeRecv e 4
    else s.disarm e) s
  s.clearTile p

/-- Staged tile allotments. -/
def State.commitTiles (s : State) (r : Tab Word) : State :=
  (List.range 16).foldl (fun s p => if tileOwner s.cfg p ≠ tileOwner r p then s.reallot p else s) s

/-- Staged ends become UNBOUND under the configuration before the commit (R465). -/
def State.commitUnbind (s : State) : State :=
  (List.range 32).foldl (fun s e =>
    if s.staged (0x0100 + 8 * e) 8 ∧ (s.fend e).st ≠ .unbound then s.unbindEnd e else s) s

/-- Staged ends with BIND = 1 become OPEN with their words (R465). -/
def State.commitBind (s : State) : State :=
  (List.range 32).foldl (fun s e =>
    if s.staged (0x0100 + 8 * e) 8 && bit (endW s.cfg e 6) 0 then s.openEnd e else s) s

/-- A committed word of TVIEW is in force at once, and a pending write of the other word is cleared (R459). -/
def Thread.commitTview (th : Thread) (i j : Nat) (w : Word) : Thread :=
  let th := th.setBoth i w
  { th with ctl := Tab.set pw0 th.ctl j (Tab.get pw0 th.act j) }

/-- Staged declaration words: world, tenant tag and TVIEW (R459). -/
def State.commitThreads (s : State) : State :=
  { s with threads := s.threads.map (fun e : Nat × Thread =>
      let d := 0x1000 + 16 * e.1
      let th := if s.staged d 1 then e.2.setWt (declW s.cfg e.1 0) else e.2
      let th := if s.staged (d + 8) 1 then th.commitTview iTVIEW (iTVIEW + 1) (declW s.cfg e.1 8) else th
      let th := if s.staged (d + 9) 1 then th.commitTview (iTVIEW + 1) iTVIEW (declW s.cfg e.1 9) else th
      (e.1, th)) }

/-- Every staged item takes effect (R468). -/
def State.commit (s : State) : State :=
  let r := s.result
  let clk := s.staged 0x0610 1
  let s := (((s.commitShares r).commitTiles r).commitUnbind)
  let s : State := { s with cfg := r }
  let s := s.commitBind.commitThreads.clearHolds
  let s := ({ s with txn := none }).atpEnd aDONE []
  if clk then s.clkItem else s

/-- The limit of a commit wait passes with a thread still pending (R467). -/
def State.commitLimit (s : State) : State :=
  match s.atpCur, s.commitBusy with
  | some (c, .commit u), t :: _ => if s.mclk < u then s else { s with atpCur := some (c, .late t (s.pendClasses t)) }
  | _, _ => s

/-- A step on an empty queue: what one cycle does, and the limit of a commit wait (R467). -/
def State.idle (s : State) : State := s.tick.commitLimit

/-- TXN_COMMIT_CYCLE: the commit wait has ended within its limit. -/
def execTxnCommitCycle (s : State) : Out :=
  .next (if ¬ s.live ∨ s.warm.isSome then s
    else match s.atpCur with
      | some (_, .commit _) => if s.commitBusy = [] then s.commit else s
      | _ => s)

/-- TXN_COMMIT_TIMEOUT: BUSY with the lowest TID that was pending at the limit and its classes; the transaction stays open. -/
def execTxnCommitTimeout (s : State) : Out :=
  .next (if ¬ s.live ∨ s.warm.isSome then s
    else match s.atpCur with
      | some (_, .late t m) => s.clearHolds.atpEnd aBUSY [wd t, wd m]
      | _ => s)

/-! ## Binding (R355, R375) -/

/-- The bound ends once end `e` is bound too. -/
def State.boundWith (s : State) (e f : Nat) : Bool := decide (f = e) || decide ((s.fend f).st ≠ .unbound)

/-- An end that FLUME_BIND may not name: above 31, refused under R355, or not UNBOUND. -/
def State.bindRefusal (s : State) (e : Nat) (r : Tab Word) : Option Ref :=
  if e ≥ 32 then some (badParam 0 0xFFFF)
  else if (endsBad r s.ident s.nThr (s.boundWith e)).isSome then some (badParam 1 (wd (0x0100 + 8 * e)))
  else if (s.fend e).st ≠ .unbound then some (aREFUSED, [wd s.core.code, wd (s.fend e).st.code])
  else none

/-- FLUME_BIND. -/
def execFlumeBind (s : State) : Out :=
  atpStart oFLUME_BIND s (fun c s =>
    let e := (c.p 0).toNat
    let r := cfgWrites s.cfg (0x0100 + 8 * e) (c.params.drop 1 ++ [1])
    orRefuse c s (s.bindRefusal e r) ((({ s with cfg := r }).openEnd e).done c []))

/-- FLUME_UNBIND. -/
def execFlumeUnbind (s : State) : Out :=
  atpStart oFLUME_UNBIND s (fun c s =>
    let e := (c.p 0).toNat
    orRefuse c s (orBad (decide (e ≥ 32)) 0)
      (let s := if (s.fend e).st = .unbound then s else s.unbindEnd e
       ({ s with cfg := cfgWrite s.cfg (0x0100 + 8 * e + 6) 0 }).done c []))

end Sys2Proof.Machine
end

