-- ==== Sys2Proof/Machine/Skidder.lean ====
section
/-!
DEFINITION. The skidder (file 13): its instructions, the descriptor and its checks, the accesses of a lane, completion, and the
answers to its MOV requests.
-/
namespace Sys2Proof.Machine

/-! ## Instructions (R387, R388, R397) -/

/-- Runs `k` when the thread may use the lane, else takes MOVER_ERROR (R387). -/
def State.laneOr (s : State) (t n : Nat) (k : State) : State :=
  if ¬ laneEn s.cfg n ∨ laneOwner s.cfg n ≠ t then s.faultP t fMOVER_ERROR (BitVec.ofNat 8 (0x20 + n)) 0 else k

/-- SKID. -/
def execSkid (t : Tid) (n : LaneNo) (rs : Reg) (s : State) : Out :=
  issued s t (.skid t n rs) { words := 2, reads := [rs.val], long := true } (fun s =>
    s.laneOr t n.val (
      if (s.lane n.val).st = .running then s.faultP t fMOVER_ERROR (BitVec.ofNat 8 (0x30 + n.val)) 0
      else
        let th := s.thr t
        let a := th.reg rs.val
        let (id, s) := s.handOff t 6 [] [] false 2
        s.setLane n.val { Lane.init with st := .running, daddr := a, pc := th.pc, op := some id, phase := .takeUp }))

/-- The code of a lane state (R384). -/
def LaneSt.code : LaneSt → Nat
  | .idle => 0
  | .running => 1
  | .stopped => 2

/-- Status words s0 and s1 of a lane (R384). -/
def State.laneStatus (s : State) (n : Nat) : List Word :=
  let l := s.lane n
  [wd (l.st.code + 256 * l.reason.toNat), l.daddr]

/-- SKSTAT. -/
def execSkstat (t : Tid) (rd : Reg) (n : LaneNo) (s : State) : Out :=
  let p : Pre := { words := 2, writes := pairOf rd.val, illegal := oddPair rd.val }
  issued s t (.skstat t rd n) p (fun s => s.laneOr t n.val (s.writeDone t p (s.laneStatus n.val)))

/-! ## The descriptor (R389, R390) -/

/-- A descriptor as read. -/
abbrev Desc := List Word

def dW (d : Desc) (i : Nat) : Word := d.getD i 0
def dOp (d : Desc) : Nat := fld (dW d 0) 3 0
def dSfar (d : Desc) : Bool := bit (dW d 0) 4
def dDfar (d : Desc) : Bool := bit (dW d 0) 5
/-- VERIFY; a FILL has no source to verify. -/
def dVerify (d : Desc) : Bool := bit (dW d 0) 6 && decide (dOp d ≠ 1)
def dSeal (d : Desc) : Bool := bit (dW d 0) 7
def dLink (d : Desc) : Bool := bit (dW d 0) 8
def dEve (d : Desc) : Bool := bit (dW d 0) 9
def dEvv (d : Desc) : Nat := fld (dW d 0) 13 10
def dFlm (d : Desc) : Bool := bit (dW d 0) 14
def dFend (d : Desc) : Nat := fld (dW d 7) 8 4
def dFar (d : Desc) : Nat := (((fld (dW d 7) 3 0 * 65536 + (dW d 6).toNat) * 65536) + (dW d 5).toNat) * 65536 + (dW d 4).toNat
def dRlen (d : Desc) : Nat := fld (dW d 8) 9 0
def dNrows (d : Desc) : Nat := fld (dW d 8) 15 10
def dSstride (d : Desc) : Nat := (dW d 9).toNat
def dDstride (d : Desc) : Nat := (dW d 10).toNat
def dStype (d : Desc) : ETy := ETy.ofCode (fld (dW d 11) 2 0)
def dDtype (d : Desc) : ETy := ETy.ofCode (fld (dW d 11) 5 3)
def dRmode (d : Desc) : Nat := fld (dW d 11) 7 6
def dSatf (d : Desc) : Bool := bit (dW d 11) 8
def dSeed (d : Desc) : Word32 := mk32 (dW d 14) (dW d 15)

/-- Words of a source row, rows and words of a destination row (R390). -/
def srcW (d : Desc) : Nat := if dOp d = 3 then (dStype d).wpr (dRlen d + 1) else dRlen d + 1
def dstRows (d : Desc) : Nat := if dOp d = 2 then dRlen d + 1 else dNrows d + 1
def dstW (d : Desc) : Nat :=
  if dOp d = 2 then dNrows d + 1 else if dOp d = 3 then (dDtype d).wpr (dRlen d + 1) else dRlen d + 1

/-- Base address of the source and of the destination. -/
def srcBase (d : Desc) : Nat := if dSfar d then dFar d else (dW d 2).toNat
def dstBase (d : Desc) : Nat := if dDfar d then dFar d else (dW d 3).toNat

/-- The blaze slot on a side (R389). -/
def slotOf (d : Desc) (far : Bool) (slot : Word) : Nat := if far then dFar d / 65536 * 65536 + slot.toNat else slot.toNat
def srcSlot (d : Desc) : Nat := slotOf d (dSfar d) (dW d 12)
def dstSlot (d : Desc) : Nat := slotOf d (dDfar d) (dW d 13)

/-- The pairs that CONVERT accepts (R391). -/
def convPair (a b : ETy) : Bool :=
  (a == .fp32 && (b == .fp16 || b == .bf16)) || ((a == .fp16 || a == .bf16) && b == .fp32)

/-- Step 4 of R393. -/
def descForm (d : Desc) : Bool :=
  let op := dOp d
  decide (op ≤ 3) && (!dSfar d || decide (op = 0)) && (!dDfar d || decide (op ≤ 1)) && !(dSfar d && dDfar d) &&
    !bit (dW d 0) 15 && decide (fld (dW d 7) 15 9 = 0) && decide (fld (dW d 11) 15 9 = 0) &&
    (decide (op ≠ 3) || (convPair (dStype d) (dDtype d) && decide (dRmode d ≠ 3))) &&
    (decide (op ≠ 2) || decide (dRlen d ≤ 63)) &&
    !(dVerify d && bit (dW d 12) 0) && !(dSeal d && bit (dW d 13) 0)

/-- Step 6 of R393: every local span and slot passes. -/
def descSpans (c : Tab Word) (wt : WT) (d : Desc) : Bool :=
  let ok (lo hi : Nat) (p : Perm) : Bool := (rangeCheck c wt lo hi [p]).isNone
  (decide (dOp d = 1) || dSfar d || ok (srcBase d) (srcBase d + dNrows d * dSstride d + srcW d - 1) .r) &&
  (dDfar d || ok (dstBase d) (dstBase d + (dstRows d - 1) * dDstride d + dstW d - 1) .w) &&
  (!dVerify d || dSfar d || ok (srcSlot d) (srcSlot d + 1) .r) &&
  (!dSeal d || dDfar d || ok (dstSlot d) (dstSlot d + 1) .w)

/-- The REASON of the first check of R393 that fails. -/
def State.takeUpFault (s : State) (t a : Nat) (d : Desc) : Option (BitVec 8) :=
  let wt := (s.thr t).wt
  if a % 16 ≠ 0 then some 0x01
  else if (s.firstBad wt a 16 .r).isSome then some 0x02
  else if (s.badIn a 16).isSome then some 0x03
  else if ¬ descForm d then some 0x04
  else if dFlm d ∧ ¬ (endDir s.cfg (dFend d) ∧ endOwner s.cfg (dFend d) = t ∧ (s.fend (dFend d)).st = .opened) then some 0x09
  else if ¬ descSpans s.cfg wt d then some 0x05
  else none

/-- The phase after the take-up, the sealing or the slot read. -/
def afterTakeUp (d : Desc) : LanePhase := if dSeal d then .sealInit else if dVerify d then .verifyRead else .move
def afterSeal (d : Desc) : LanePhase := if dVerify d then .verifyRead else .move

/-- DESCRIPTOR_TAKE_UP: reads and checks the descriptor, the first at the address of the SKID and a later one at NEXT; the SKID of a
first descriptor retires. A take-up of a chain waits for
a commit that waits for the lane (R399). -/
def execDescriptorTakeUp (n : LaneNo) (s : State) : Out :=
  let l := s.lane n.val
  let t := laneOwner s.cfg n.val
  .next (if ¬ s.runs ∨ l.st ≠ .running ∨ l.phase ≠ .takeUp ∨ (l.op = none ∧ (s.thr t).commitHold) then s
    else
      let daddr := if l.op.isSome then l.daddr else dW l.desc 1
      let a := daddr.toNat
      let d := (s.mwords a 16).map (·.d)
      match s.takeUpFault t a d with
      | some r => (s.setLane n.val { l with daddr := daddr }).laneStop n.val r true
      | none =>
        let s := match l.op with
          | some id => s.retire t id []
          | none => s
        s.setLane n.val { l with
          op := none, daddr := daddr, desc := d, phase := afterTakeUp d, rd := 0, wr := 0, src := [], cvt := [], cvtRow := 0
          sr := if dSeed d = 0 then 1 else dSeed d
          slotVal := (0, 0), badWord := false, msgWait := 0 })

/-! ## The accesses of a lane (R390, R401, R402) -/

/-- An access of a lane: a row, its first column, and the words. -/
structure Piece where
  row : Nat
  col : Nat
  n : Nat
  deriving DecidableEq, Repr

/-- Words that one access moves from an address: two groups of local memory, or up to a far address with [4:0] = 0. -/
def accessMax (far : Bool) (a : Nat) : Nat := if far then 32 - a % 32 else 8 - a % 4

/-- The accesses of `n` words of a row from address `a`; `fuel` is at least `n`. -/
def splitRow (far : Bool) (row : Nat) : Nat → Nat → Nat → Nat → List Piece
  | 0, _, _, _ => []
  | fuel + 1, a, col, n =>
    if n = 0 then []
    else
      let k := min n (accessMax far a)
      ⟨row, col, k⟩ :: splitRow far row fuel (a + k) (col + k) (n - k)

/-- The accesses of whole rows. -/
def rowPieces (far : Bool) (base stride rows w : Nat) : List Piece :=
  (List.range rows).flatMap (fun r => splitRow far r w (base + r * stride) 0 w)

/-- The accesses of one side of a TRANSPOSE, block by block of 8 × 8 words; the blocks go along the source rows. -/
def blockPieces (src : Bool) (base stride rows cols : Nat) : List Piece :=
  (List.range (cdiv rows 8)).flatMap (fun br =>
    (List.range (cdiv cols 8)).flatMap (fun bc =>
      let h := min 8 (rows - 8 * br)
      let w := min 8 (cols - 8 * bc)
      if src then (List.range h).flatMap (fun i => splitRow false (8 * br + i) w (base + (8 * br + i) * stride + 8 * bc) (8 * bc) w)
      else (List.range w).flatMap (fun j => splitRow false (8 * bc + j) h (base + (8 * bc + j) * stride + 8 * br) (8 * br) h)))

def readPieces (d : Desc) : List Piece :=
  if dOp d = 1 then []
  else if dOp d = 2 then blockPieces true (srcBase d) (dSstride d) (dNrows d + 1) (dRlen d + 1)
  else rowPieces (dSfar d) (srcBase d) (dSstride d) (dNrows d + 1) (srcW d)

def writePieces (d : Desc) : List Piece :=
  if dOp d = 2 then blockPieces false (dstBase d) (dDstride d) (dNrows d + 1) (dRlen d + 1)
  else rowPieces (dDfar d) (dstBase d) (dDstride d) (dstRows d) (dstW d)

/-- The word of a destination position, once its source words are in. -/
def Lane.dstWord (l : Lane) (row col : Nat) : Option Word :=
  let d := l.desc
  match dOp d with
  | 1 => some (dW d 2)
  | 2 => Tab.find l.src (col * srcW d + row)
  | 3 => Tab.find l.cvt (row * dstW d + col)
  | _ => Tab.find l.src (row * srcW d + col)

/-- The words of a write, when all are there. -/
def Lane.pieceWords (l : Lane) (p : Piece) : Option (List Word) :=
  (List.range p.n).mapM (fun i => l.dstWord p.row (p.col + i))

/-- Converts elements of a row in ascending order, stepping the SR state before each (R391, R392). DEDUCED (log entry 61): R391 names
the flush of R185 for a widening conversion; a subnormal source of a narrowing one is flushed and counted too (R215 item 3). -/
def convElems (d : Desc) (word : Nat → Word) : Nat → Nat → Word32 → List Nat × Word32 × Counts
  | 0, _, sr => ([], sr, Counts.zero)
  | n + 1, i, sr =>
    let sr := lfsr sr
    let (v, fl) := inVal (dStype d) ((dStype d).extract word i)
    let r := toFloat (dDtype d) (RMode.ofCode (dRmode d) (sr.toNat % 65536)) (dSatf d) v
    let rest := convElems d word n (i + 1) sr
    (r.1 :: rest.1, rest.2.1, ((Counts.flushIn (b2n fl)).plus r.2).plus rest.2.2)

/-- Converts the next row when all its source words are in; the counts go to the skidder's counters (R404). -/
def State.convRow (s : State) (n : Nat) : State :=
  let l := s.lane n
  let d := l.desc
  if dOp d ≠ 3 ∨ l.cvtRow > dNrows d ∨ ¬ (List.range (srcW d)).all (fun i => (Tab.find l.src (l.cvtRow * srcW d + i)).isSome) then s
  else
    let (es, sr, c) := convElems d (fun i => (Tab.find l.src (l.cvtRow * srcW d + i)).getD 0) (dRlen d + 1) 0 l.sr
    let s := ((s.count cSkdFlush (c.flushi + c.flusho)).count cSkdSatc c.satc).count cSkdNanc c.nanc
    s.setLane n { l with cvt := putWords l.cvt (l.cvtRow * dstW d) ((dDtype d).pack es), cvtRow := l.cvtRow + 1, sr := sr }

/-- The lane that a MOV tag serves. -/
def MovTag.lane : MovTag → Option Nat
  | .read l _ _ => some l
  | .write l => some l
  | .slotRead l => some l
  | .slotWrite l => some l
  | .dropped _ => none

/-- The lane that holds a MOV tag, until its answer is in (R396, R403). -/
def MovTag.holder : MovTag → Option Nat
  | .dropped l => some l
  | g => g.lane

/-- Outstanding MOV requests of a lane's present run. -/
def State.laneTags (s : State) (n : Nat) : Nat := (s.movTags.filter (fun e => e.2.lane = some n)).length

/-- MOV tags that a lane holds. -/
def State.heldTags (s : State) (n : Nat) : Nat := (s.movTags.filter (fun e => e.2.holder = some n)).length

/-- A free MOV tag, the lowest (DESIGN CHOICE, log entry 43), while the lane holds fewer than 8 (R403). -/
def State.freeMov (s : State) (n : Nat) : Option Nat :=
  if s.heldTags n ≥ 8 then none else (List.range 16).find? (fun k => (Tab.find s.movTags k).isNone)

/-- The blaze of words in row-major order (R241, R394). -/
def blazeOf (rows w : Nat) (word : Nat → Nat → Word) : Word × Word :=
  let c := (List.range rows).foldl (fun c r => (List.range w).foldl (fun c i => fletcher c (word r i)) c) (0, 0)
  (wd c.1, wd c.2)

/-- VERIFY of the source words read (R394). -/
def Lane.verified (l : Lane) : Bool :=
  let d := l.desc
  !l.badWord && decide (l.slotVal = blazeOf (dNrows d + 1) (srcW d) (fun r i => (Tab.find l.src (r * srcW d + i)).getD 0))

/-- The blaze that SEAL writes. -/
def Lane.sealWords (l : Lane) : List Word :=
  let b := blazeOf (dstRows l.desc) (dstW l.desc) (fun r i => (l.dstWord r i).getD 0)
  [b.1, b.2]

/-- Once every word has been read, written and acknowledged: the verdict of VERIFY, then the sealing or the completion. -/
def State.laneSettle (s : State) (n : Nat) : State :=
  let l := s.lane n
  if l.st ≠ .running ∨ l.phase ≠ .move ∨ l.rd < (readPieces l.desc).length ∨ l.wr < (writePieces l.desc).length ∨ s.laneTags n ≠ 0 then s
  else if dVerify l.desc ∧ ¬ l.verified then s.laneStop n 0x07 true
  else s.setLane n { l with phase := if dSeal l.desc then .sealWrite else .complete }

/-- A MOV request of a lane leaves, or the lane stops when its far address names no target (R31, R402). -/
def State.movSend (s : State) (n tag : Nat) (g : MovTag) (kind a count : Nat) (data : List Word) : State :=
  let addr : FarAddr := BitVec.ofNat 52 a
  match farDst addr with
  | none => s.laneStop n 0x12 true
  | some dst =>
    let wt := (s.thr (laneOwner s.cfg n)).wt
    let s := { s with movTags := Tab.put s.movTags tag g }
    s.emit clsMOV dst ([wt.setWidth 16, wd (kind + 256 * tag)] ++ farAddrWords addr ++ [wd (count - 1)] ++ data)

/-- Writes a slot, locally or far, and goes on in the given phase. -/
def State.slotAccess (s : State) (n : Nat) (far : Bool) (a : Nat) (ws : List Word) (ph : LanePhase) : State :=
  let next (s : State) : State := s.modLane n (fun l => { l with phase := ph })
  if far then
    match s.freeMov n with
    | none => s
    | some tag => (next s).movSend n tag (.slotWrite n) 0 a 2 ws
  else next (s.msetList a ws)

/-- Reads the source slot (R394). -/
def State.slotLoad (s : State) (n : Nat) : State :=
  let d := (s.lane n).desc
  let a := srcSlot d
  if dSfar d then
    match s.freeMov n with
    | none => s
    | some tag => (s.modLane n (fun l => { l with phase := .move })).movSend n tag (.slotRead n) 1 a 2 []
  else
    s.modLane n (fun l =>
      { l with phase := .move, slotVal := ((s.mget a).d, (s.mget (a + 1)).d), badWord := (s.badIn a 2).isSome })

/-- One read of a lane: a failing local word stops the lane (R145, R396). -/
def State.laneRead (s : State) (n : Nat) (p : Piece) : State :=
  let l := s.lane n
  let d := l.desc
  let a := srcBase d + p.row * dSstride d + p.col
  let pos := p.row * srcW d + p.col
  if dSfar d then
    match s.freeMov n with
    | none => s
    | some tag => (s.setLane n { l with rd := l.rd + 1 }).movSend n tag (.read n pos p.n) 1 a p.n []
  else if (s.badIn a p.n).isSome then s.laneStop n 0x06 true
  else (s.setLane n { l with rd := l.rd + 1, src := putWords l.src pos ((s.mwords a p.n).map (·.d)) }).convRow n

/-- One write of a lane. -/
def State.laneWrite (s : State) (n : Nat) (p : Piece) (ws : List Word) : State :=
  let l := s.lane n
  let d := l.desc
  let a := dstBase d + p.row * dDstride d + p.col
  if dDfar d then
    match s.freeMov n with
    | none => s
    | some tag => (s.setLane n { l with wr := l.wr + 1 }).movSend n tag (.write n) 0 a p.n ws
  else (s.msetList a ws).setLane n { l with wr := l.wr + 1 }

/-- An access of the transfer: the next write when its words are there, else the next read. -/
def State.laneMove (s : State) (n : Nat) : State :=
  let l := s.lane n
  let w := (writePieces l.desc)[l.wr]?
  match w, w.bind l.pieceWords with
  | some p, some ws => s.laneWrite n p ws
  | _, _ =>
    match (readPieces l.desc)[l.rd]? with
    | some p => s.laneRead n p
    | none => s

/-- SKIDDER_PORT_ACCESS. -/
def execSkidderPortAccess (n : LaneNo) (s : State) : Out :=
  let l := s.lane n.val
  let d := l.desc
  .next (if ¬ s.runs ∨ l.st ≠ .running then s
    else match l.phase with
      | .sealInit => s.slotAccess n.val (dDfar d) (dstSlot d) [0xFFFF, 0xFFFF] (afterSeal d)
      | .verifyRead => s.slotLoad n.val
      | .move => (s.laneMove n.val).laneSettle n.val
      | .sealWrite => s.slotAccess n.val (dDfar d) (dstSlot d) l.sealWords .complete
      | _ => s)

/-! ## Completion (R395, R396) -/

/-- The lane goes on to NEXT, whose address DADDR names once it is taken up (R384), or becomes IDLE. -/
def Lane.onward (l : Lane) : Lane :=
  if dLink l.desc then { l with phase := .takeUp } else { l with st := .idle, phase := .none }

/-- The notices of a descriptor have been sent: the lane goes on, or stops for an SKSTOP before it takes up NEXT (R395, R397). -/
def State.laneOnward (s : State) (n : Nat) : State :=
  let l := s.lane n
  if l.stopReq then s.laneStop n 0x0B false else s.setLane n l.onward

/-- The descriptor of the lane has completed: only its notices are left (R395). -/
def State.laneDone (s : State) (n : Nat) : Bool :=
  decide ((s.lane n).st = .running) && decide ((s.lane n).phase = .complete) && decide (s.laneTags n = 0)

/-- The notices of a completed descriptor: its event, then its message or the way on. -/
def State.laneComplete (s : State) (n : Nat) : State :=
  let d := (s.lane n).desc
  let s := if dEve d then s.setEv (laneOwner s.cfg n) (dEvv d) else s
  if ¬ dFlm d then s.laneOnward n
  else if (s.fend (dFend d)).st ≠ .opened then s.laneStop n 0x0D true
  else s.modLane n (fun l => { l with phase := .message, msgWait := 0 })

/-- DESCRIPTOR_COMPLETE. -/
def execDescriptorComplete (n : LaneNo) (s : State) : Out :=
  .next (if ¬ s.runs ∨ ¬ s.laneDone n.val then s else s.laneComplete n.val)

/-- SKSTOP: a descriptor that has completed still has its notices sent (R397). -/
def execSkstop (t : Tid) (n : LaneNo) (s : State) : Out :=
  issued s t (.skstop t n) {} (fun s => s.laneOr t n.val (
    (if s.laneDone n.val then (s.modLane n.val (fun l => { l with stopReq := true })).laneComplete n.val
     else s.laneStop n.val 0x0B false).finish t 1))

/-- The end can take the message: its landing is empty and it has a credit (R395). -/
def State.msgReady (s : State) (e : Nat) : Bool := decide ((s.fend e).landing = []) && decide ((s.fend e).credit > 0)

/-- Reserves the credit of a completion message (R395). -/
def State.laneReserve (s : State) (n : Nat) : State :=
  (s.modEnd (dFend (s.lane n).desc) (fun x => { x with credit := x.credit - 1 })).modLane n (fun l => { l with phase := .reserved })

/-- Hands a completion message off once there is room among the packets (R362, R363, R395). -/
def State.laneSend (s : State) (n : Nat) : State :=
  if ¬ s.flmRoom then s
  else
    let l := s.lane n
    let e := dFend l.desc
    let q := (s.fend e).seq + 1
    ((s.sendMsg e q [l.daddr]).modEnd e (fun x => { x with seq := q })).laneOnward n

/-- COMPLETION_MESSAGE: the credit is reserved, then the message is sent. -/
def execCompletionMessage (n : LaneNo) (s : State) : Out :=
  let l := s.lane n.val
  .next (if ¬ s.runs ∨ l.st ≠ .running then s
    else match l.phase with
      | .message => if s.msgReady (dFend l.desc) then (s.laneReserve n.val).laneSend n.val else s
      | .reserved => s.laneSend n.val
      | _ => s)

/-- COMPLETION_MESSAGE_STALL. -/
def execCompletionMessageStall (n : LaneNo) (s : State) : Out :=
  let l := s.lane n.val
  let e := dFend l.desc
  .next (if ¬ s.runs ∨ l.st ≠ .running ∨ l.phase ≠ .message ∨ s.msgReady e ∨ l.msgWait < 2 ^ endStall s.cfg e then s
    else s.laneStop n.val 0x0A true)

/-! ## Answers (R396, R402, R403) -/

/-- The answer to a MOV request: DATA, ACK or ABS; `bad` is the REASON when it fails. -/
def State.movAnswer (s : State) (tag : Nat) (bad : Option (BitVec 8)) (read : Bool) (data : List Word) : State :=
  match Tab.find s.movTags tag with
  | none => s
  | some g =>
    let s' := { s with movTags := Tab.del s.movTags tag }
    match bad, g with
    | _, .dropped _ => s'
    | some r, g => (g.lane.map (fun n => s'.laneStop n r true)).getD s'
    | none, .read n pos k =>
      if ¬ read ∨ data.length ≠ k then s
      else (s'.modLane n (fun l => { l with src := putWords l.src pos data })).laneSettle n
    | none, .slotRead n =>
      if ¬ read ∨ data.length ≠ 2 then s
      else (s'.modLane n (fun l => { l with slotVal := (data.getD 0 0, data.getD 1 0) })).laneSettle n
    | none, .write n => if read then s else s'.laneSettle n
    | none, .slotWrite n => if read then s else s'.laneSettle n

/-- The REASON of a response status (R396). -/
def movBad (status : BitVec 4) : Option (BitVec 8) := if status = 0 then none else some (BitVec.ofNat 8 (0x10 + status.toNat))

/-- MOV_DATA. -/
def execMovData (tag : BitVec 8) (status : BitVec 4) (data : List Word) (s : State) : Out :=
  .next (if data.length > 57 then s.discardLong
    else if ¬ s.runs then s else s.movAnswer tag.toNat (movBad status) true data)

/-- MOV_ACK. -/
def execMovAck (tag : BitVec 8) (status : BitVec 4) (s : State) : Out :=
  .next (if ¬ s.runs then s else s.movAnswer tag.toNat (movBad status) false [])

end Sys2Proof.Machine
end

