-- ==== Sys2Proof/Machine/Debug.lean ====
section
/-!
DEFINITION. Thread commands, debug, and memory access through Atpolet (R98, R453, R472 to R481).
-/
namespace Sys2Proof.Machine

/-! ## Thread commands (R453) -/

/-- Step 5 for a TID, and step 6 for the thread's state. -/
def State.tidRefusal (s : State) (c : AtpCmd) (more : Option Ref) (ok : ThSt → Bool) : Option Ref :=
  let st := (s.thr (c.p 0).toNat).st
  if (c.p 0).toNat ≥ s.nThr then some (badParam 0 0xFFFF)
  else match more with
    | some r => some r
    | none => if ok st then none else some (aREFUSED, [wd s.core.code, wd st.code])

/-- The initial values that THREAD_START applies (R94, R98, R459). -/
def Thread.applyDecl (th : Thread) (d : Nat → Word) : Thread :=
  let m (i : Nat) (w : Word) : Word := wd (w.toNat &&& ctlMask i)
  let th := (th.setBoth iSSP (d 2)).setBoth iSBASE (d 3)
  let th := (th.setBoth iEVB (m iEVB (d 4))).setBoth iEVEN (d 5)
  let th := (th.setBoth iMSEED (d 6)).setBoth (iMSEED + 1) (d 7)
  let th := (th.setBoth iTVIEW (d 8)).setBoth (iTVIEW + 1) (d 9)
  let th := th.setBoth iBZBASE (m iBZBASE (d 10))
  let w := d 11
  let psw := fld w 3 1 + 8 * fld w 0 0 + 32 * fld w 4 4
  let th := th.setBoth iPSW (pswWrite th.psw (wd psw))
  let th := (th.setBoth iMCHK (clampMchk (m iMCHK (d 12)))).setBoth iSAVEP (m iSAVEP (d 13))
  (th.setBoth 0x05 (d 14)).setPc (d 1)

/-- THREAD_START. -/
def execThreadStart (s : State) : Out :=
  atpStart oTHREAD_START s (fun c s =>
    let t := (c.p 0).toNat
    orRefuse c s (s.tidRefusal c none (· == .ready))
      (let s := s.modThr t (fun th => { th.applyDecl (declW s.cfg t) with st := .running })
       ({ s with core := if s.core = CoreSt.loaded then CoreSt.running else s.core }).done c []))

/-- The thread states in which a thread runs, waits or is halted. -/
def ThSt.started : ThSt → Bool
  | .running | .parked | .halted => true
  | _ => false

/-- Asks for a halt of a thread that is not HALTED. -/
def State.askHalt (s : State) (t : Nat) (by_ : HaltBy) : State :=
  if (s.thr t).st = .halted then s else s.modThr t (fun th => { th with haltReq := some by_ })

/-- THREAD_STOP. -/
def execThreadStop (s : State) : Out :=
  atpStart oTHREAD_STOP s (fun c s =>
    let t := (c.p 0).toNat
    orRefuse c s (s.tidRefusal c (orBad (decide (c.p 1 = 0)) 1) ThSt.started)
      ({ s with atpCur := some (c, .stop t (c.p 1).toNat (if (s.thr t).st = ThSt.halted then some s.mclk else none)) }.askHalt t .threadStop))

/-- THREAD_STOP_DONE: the thread has stopped, and its long operations and far stores have completed, or the time-out has passed since;
a running lane descriptor is not waited for, but is among the classes still pending (R474, R475). -/
def execThreadStopDone (s : State) : Out :=
  .next (if ¬ s.live ∨ s.warm.isSome then s
    else match s.atpCur with
      | some (_, .stop t p1 (some since)) =>
        let pend := s.pendClasses t
        if pend % 0x100 = 0 then s.atpEnd aDONE [0]
        else if s.mclk ≥ since + p1 then s.atpEnd aDONE [wd pend]
        else s
      | _ => s)

/-- A thread after a thread reset: READY, its registers and control registers at their reset values but TTAG and PSW.WORLD, its
items discarded, its last-gasp record kept (R76, R98, R434, R513). -/
def Thread.reset (th : Thread) : Thread :=
  { Thread.init.setWt (th.ctlW iTTAG) with st := .ready, lastgasp := th.lastgasp, notifyAge := th.notifyAge }

/-- A thread reset (R98, R220, R309, R351, R375, R398, R513, R514). -/
def State.threadReset (s : State) (t : Nat) : State :=
  let s := (((s.tellDeadlines t).modThr t Thread.reset).dropReports t).dropWork t 1
  (List.range 16).foldl (fun s p => if tileOwner s.cfg p = some t then s.clearTile p else s) s

/-- THREAD_RESET. -/
def execThreadReset (s : State) : Out :=
  atpStart oTHREAD_RESET s (fun c s =>
    orRefuse c s (s.tidRefusal c none (· != .empty)) ((s.threadReset (c.p 0).toNat).done c []))

/-- A HALTED thread runs again; its first fetch and its first data access match nothing (R478). -/
def Thread.resumed (th : Thread) (stepping : Bool) : Thread :=
  { th with st := .running, stepping := stepping, skipBreak := true, skipWatch := true }

/-- THREAD_RESUME. -/
def execThreadResume (s : State) : Out :=
  atpStart oTHREAD_RESUME s (fun c s =>
    orRefuse c s (s.tidRefusal c none (· == .halted))
      ((s.modThr (c.p 0).toNat (fun th => th.resumed false)).done c []))

/-- DBG_HALT. -/
def execDbgHalt (s : State) : Out :=
  atpStart oDBG_HALT s (fun c s =>
    let t := (c.p 0).toNat
    orRefuse c s (s.tidRefusal c none ThSt.started)
      (if (s.thr t).st = .halted then s.done c [(s.thr t).pc]
       else { s with atpCur := some (c, .halt t) }.askHalt t .dbgHalt))

/-- DBG_STEP. -/
def execDbgStep (s : State) : Out :=
  atpStart oDBG_STEP s (fun c s =>
    let t := (c.p 0).toNat
    orRefuse c s (s.tidRefusal c none (· == .halted))
      ({ s with atpCur := some (c, .step t) }.modThr t (fun th => th.resumed true)))

/-! ## Debug spaces (R476, R477) -/

/-- The objects of a space. -/
def State.spaceSize (s : State) (sp : Nat) : Nat :=
  if sp ≤ 2 then s.nThr else if sp = 3 then 32 else if sp = 4 then 4 else 16

/-- The indexes that a space lists. -/
def dbgListed (sp i : Nat) : Bool :=
  match sp with
  | 0 => decide (i < 40)
  | 1 => ctlListed i || decide (i = 0x30) || decide (i = 0x31)
  | 2 => decide (i < 16)
  | 3 => decide (i ≤ 6) || (decide (8 ≤ i) && decide (i ≤ 11)) || (decide (16 ≤ i) && decide (i ≤ 31))
  | 4 => decide (i ≤ 2)
  | _ => decide (i < 512)

/-- A word of the control space of a thread. -/
def Thread.dbgCtl (th : Thread) (t i : Nat) : ParWord :=
  if i = 0x00 then th.pcw
  else if i = 0x20 then th.dlaw.1
  else if i = 0x21 then th.dlaw.2
  else if i = 0x22 then th.dlbw.1
  else if i = 0x23 then th.dlbw.2
  else if i = iTID then th.tidP t
  else if i = 0x30 then pw (wd th.st.code)
  else if i = 0x31 then pw (wd (b2n th.lfill + 2 * b2n th.sfill))
  else th.ctlP i

/-- A listed word of an object, as stored. -/
def State.dbgWord (s : State) (sp ob i : Nat) : ParWord :=
  match sp with
  | 0 => (s.thr ob).regP i
  | 1 => (s.thr ob).dbgCtl ob i
  | 2 => if i < 8 then pw ((s.thr ob).shape i) else pw ((Tab.find (s.thr ob).pshapes (i - 8)).getD 0xFFFF)
  | 3 =>
    if i ≤ 6 then pw (endW s.cfg ob i)
    else if i ≤ 11 then pw ((s.endStatus ob).getD (i - 8) 0)
    else pw ((s.fend ob).landing.getD (i - 16) 0)
  | 4 => if i = 0 then pw (laneW s.cfg ob) else pw ((s.laneStatus ob).getD (i - 1) 0)
  | _ => s.tget ob i

/-- Count, words, and one mask word for each 16 words (R454). -/
def withMask (l : List ParWord) : List Word :=
  wd l.length :: l.map (·.d) ++
    (List.range (cdiv l.length 16)).map (fun k =>
      wd ((List.range 16).foldl (fun m i =>
        match l[16 * k + i]? with
        | some w => if parOk w then m else m + 2 ^ i
        | none => m) 0))

/-- The refusals of R477 for a tile: its owner is neither READY nor HALTED. -/
def State.tileRefusal (s : State) (sp ob : Nat) : Option Ref :=
  if sp ≠ 5 then none
  else match tileOwner s.cfg ob with
    | none => none
    | some t =>
      let st := (s.thr t).st
      if st = .ready ∨ st = .halted then none else some (aREFUSED, [wd s.core.code, wd st.code])

/-- Step 5 for space and object. -/
def State.spaceBad (s : State) (c : AtpCmd) : Option Ref :=
  if (c.p 0).toNat > 5 then some (badParam 0 0xFFFF)
  else orBad (decide ((c.p 1).toNat ≥ s.spaceSize (c.p 0).toNat)) 1

/-- The first refusal. -/
def firstRef (l : List (Option Ref)) : Option Ref := l.findSome? id

/-- DBG_READ. -/
def execDbgRead (s : State) : Out :=
  atpStart oDBG_READ s (fun c s =>
    let sp := (c.p 0).toNat
    let ob := (c.p 1).toNat
    let n := (c.p 3).toNat
    orRefuse c s (firstRef [s.spaceBad c, orBad (decide (n = 0) || decide (n > 48)) 3, s.tileRefusal sp ob])
      (s.done c (withMask ((List.range n).map (fun k =>
        let i := (c.p 2).toNat + k
        if dbgListed sp i then s.dbgWord sp ob i else pw0)))))

/-- A word that DBG_WRITE may not write (R383, R476). -/
def dbgDenied (sp i : Nat) : Bool :=
  match sp with
  | 1 => (ctlReadOnly i && decide (i ≠ 0)) || decide (i ≥ 0x30)
  | 2 => decide (i ≥ 8)
  | 3 => true
  | 4 => true
  | _ => false

/-- A control word after DBG_WRITE (R476). -/
def Thread.dbgCtlWrite (th : Thread) (i : Nat) (w : Word) : Thread :=
  if i = 0x00 then th.setPc w
  else if i = iPSW then th.setCtl iPSW (pswWrite th.psw w)
  else if i = iMCHK then th.setBoth iMCHK (clampMchk (wd (w.toNat &&& ctlMask i)))
  else th.setBoth i (wd (w.toNat &&& ctlMask i))

/-- Writes one word of an object. -/
def State.dbgPut (s : State) (sp ob i : Nat) (w : Word) : State :=
  match sp with
  | 0 => s.modThr ob (fun th => th.setRegN i w)
  | 1 => s.modThr ob (fun th => th.dbgCtlWrite i w)
  | 2 => s.modThr ob (fun th => { th with shapes := Tab.set 0 th.shapes i w, pshapes := Tab.del th.pshapes i })
  | _ => s.tset ob i w

/-- Writes consecutive words of an object. -/
def State.dbgPutList (s : State) (sp ob i : Nat) : List Word → State
  | [] => s
  | w :: ws => (s.dbgPut sp ob i w).dbgPutList sp ob (i + 1) ws

/-- Step 6 for a thread whose registers or shapes are written (R453). -/
def State.writeRefusal (s : State) (sp ob : Nat) : Option Ref :=
  let st := (s.thr ob).st
  if sp > 2 ∨ st = .ready ∨ st = .halted then none else some (aREFUSED, [wd s.core.code, wd st.code])

/-- DBG_WRITE. -/
def execDbgWrite (s : State) : Out :=
  atpStart oDBG_WRITE s (fun c s =>
    let sp := (c.p 0).toNat
    let ob := (c.p 1).toNat
    let i := (c.p 2).toNat
    let ws := c.params.drop 3
    orRefuse c s (firstRef [s.spaceBad c, orBad (firstNot (dbgListed sp) i ws.length).isSome 2, s.writeRefusal sp ob,
        s.tileRefusal sp ob])
      (if (firstNot (fun k => !dbgDenied sp k) i ws.length).isSome then s.reply c aDENIED []
       else (s.dbgPutList sp ob i ws).done c []))

/-- DBG_BREAK (R479). -/
def execDbgBreak (s : State) : Out :=
  atpStart oDBG_BREAK s (fun c s =>
    let w := c.p 0
    orRefuse c s (orBad (decide (fld w 10 5 ≥ s.nThr)) 0)
      (({ s with brks := Tab.put s.brks (fld w 1 0) ⟨w, c.p 1, 0⟩ }).done c []))

/-- DBG_WATCH (R480). -/
def execDbgWatch (s : State) : Out :=
  atpStart oDBG_WATCH s (fun c s =>
    let w := c.p 0
    orRefuse c s (firstRef [orBad (decide (fld w 9 4 ≥ s.nThr)) 0, orBad (decide ((c.p 1).toNat > (c.p 2).toNat)) 1])
      (({ s with watches := Tab.put s.watches (fld w 0 0) ⟨w, c.p 1, c.p 2⟩ }).done c []))

/-! ## Local memory (R481) -/

/-- Before READY.LM (R481). -/
def State.memBusy (s : State) : Option Ref := if bit s.ready 2 then none else some (aBUSY, [])

/-- MEM_READ. -/
def execMemRead (s : State) : Out :=
  atpStart oMEM_READ s (fun c s =>
    let a := (c.p 0).toNat
    let n := (c.p 1).toNat
    orRefuse c s (firstRef [orBad (decide (n = 0) || decide (n > 48)) 1, orBad (decide (a + n > 65536)) 0, s.memBusy])
      (s.done c (withMask (s.mwords a n))))

/-- MEM_WRITE. -/
def execMemWrite (s : State) : Out :=
  atpStart oMEM_WRITE s (fun c s =>
    let a := (c.p 0).toNat
    let ws := c.params.drop 1
    orRefuse c s (firstRef [orBad (decide (a + ws.length > 65536)) 0, s.memBusy]) ((s.msetList a ws).done c []))

end Sys2Proof.Machine
end

