-- ==== Sys2Proof/Machine/Branch.lean ====
section
/-!
DEFINITION. Branches, jumps, calls and returns (R109, R77 to R79).
-/
namespace Sys2Proof.Machine

/-- A conditional branch: `nz` gives the sense, `target` the address when taken (R109). -/
def execBranch (i : Instr) (t : Tid) (rs : Reg) (words : Nat) (nz : Bool) (target : Word → Word) (s : State) : Out :=
  issued s t i { words := words, reads := [rs.val] } (fun s =>
    let th := s.thr t
    if (th.reg rs.val != 0) == nz then s.finishAt t (target th.pc) else s.finish t words)

/-- The target of a short branch (R109). -/
def shortTarget (off : BitVec 7) (pc : Word) : Word := pc + 1 + off.signExtend 16

/-- BZ, short form. -/
def execBz (t : Tid) (rs : Reg) (off : BitVec 7) (s : State) : Out := execBranch (.bz t rs off) t rs 1 false (shortTarget off) s

/-- BNZ, short form. -/
def execBnz (t : Tid) (rs : Reg) (off : BitVec 7) (s : State) : Out := execBranch (.bnz t rs off) t rs 1 true (shortTarget off) s

/-- BZ.L. -/
def execBzL (t : Tid) (rs : Reg) (target : Word) (s : State) : Out :=
  execBranch (.bzL t rs target) t rs 2 false (fun _ => target) s

/-- BNZ.L. -/
def execBnzL (t : Tid) (rs : Reg) (target : Word) (s : State) : Out :=
  execBranch (.bnzL t rs target) t rs 2 true (fun _ => target) s

/-- JMP target16. -/
def execJmp (t : Tid) (target : Word) (s : State) : Out :=
  issued s t (.jmp t target) { words := 2 } (fun s => s.finishAt t target)

/-- JMP rs. -/
def execJmpReg (t : Tid) (rs : Reg) (s : State) : Out :=
  issued s t (.jmpReg t rs) { reads := [rs.val] } (fun s => s.finishAt t ((s.thr t).reg rs.val))

/-- Register number of L7 of window `w`. -/
def l7 (w : Nat) : Nat := 8 + 8 * w + 7

/-- Enters the next window, or faults at WP = 3 (R77, R79). -/
def State.callTo (s : State) (t : Nat) (words : Nat) (target : Word) : State :=
  let th := s.thr t
  if th.wp ≥ 3 then s.faultP t fWINDOW_DEPTH 1 0
  else
    let w := th.wp + 1
    (s.modThr t (fun th => (th.writes [(l7 w, th.pc + wd words)]).setCtl iWP (wd w))).finishAt t target

/-- The issue requirements of a CALL: it writes L7 of the next window. -/
def callPre (s : State) (t : Nat) (words : Nat) (reads : List Nat) : Pre :=
  { words := words, reads := reads, uses := [iWP], regNos := [l7 ((s.thr t).wp + 1)] }

/-- CALL target16 (R77). -/
def execCall (t : Tid) (target : Word) (s : State) : Out :=
  issued s t (.call t target) (callPre s t 2 []) (fun s => s.callTo t 2 target)

/-- CALL rs: the target is read in the window that was current before the call (R77). -/
def execCallReg (t : Tid) (rs : Reg) (s : State) : Out :=
  issued s t (.callReg t rs) (callPre s t 1 [rs.val]) (fun s => s.callTo t 1 ((s.thr t).reg rs.val))

/-- RET (R78, R79). -/
def execRet (t : Tid) (s : State) : Out :=
  issued s t (.ret t) { reads := [15], uses := [iWP] } (fun s =>
    let th := s.thr t
    if th.wp = 0 then s.faultP t fWINDOW_DEPTH 2 0
    else
      let pc := th.reg 15
      (s.modThr t (fun th => th.setCtl iWP (wd (th.wp - 1)))).finishAt t pc)

end Sys2Proof.Machine
end

