-- ==== Sys2Proof/Machine/Context.lean ====
section
/-!
DEFINITION. SAVEH, SAVEL, RESTH and RESTL (R81 to R88).
-/
namespace Sys2Proof.Machine

/-- The word a save or a parity check reads: its PARITY_REG AUX and the stored word (R73, R74). -/
abbrev Saved := Nat × ParWord

/-- Words 2 to 33 of a SAVEH area (R82). DESIGN CHOICE (log entry 39): R73 gives CAUSE.AUX 8 + n for Ln of the current window
only; Ln of any other window answers 8 + n here as well. -/
def Thread.upper (th : Thread) : List Saved := (List.range 32).map (fun i => (8 + i % 8, th.regP (8 + i)))

/-- Words 2 to 28 of a SAVEL area (R82); `rs` is the operand stored as the PC value. -/
def Thread.lower (th : Thread) (rs : Nat) : List Saved :=
  let c (i : Nat) : Saved := (0x40 + i, th.ctlP i)
  (List.range 8).map (fun n => (n, th.regP n)) ++ [(rs, th.regP (th.regNo rs)), c iPSW, c iLCNT] ++
    (List.range 12).map (fun k => c (iXB + k)) ++ [c iMROW, c (iMROW + 1), c iTVIEW, c (iTVIEW + 1)]

/-- What the checks of R83 from step 3 answer. -/
inductive CtxGate where
  | fault (code aux : BitVec 8) (faddr : Word)
  | area (a : Nat)

/-- Steps 4 to 6 of R83 on the head of a list; `empty` is the AUX of SAVE_EMPTY. DESIGN CHOICE (log entry 40): R150 gives the AUX
of one word, and R83 asks for one compartment over the 48: AUX is 0x02 only where one entry of the thread's tag covers both
ends, and 0x01 where none does, be every word covered by some entry. -/
def State.ctxArea (s : State) (th : Thread) (head : Word) (empty : BitVec 8) : CtxGate :=
  let a := head.toNat
  if head = 0 then .fault fSAVE_EMPTY empty 0
  else if a % 4 ≠ 0 then .fault fALIGN 0 head
  else if oneCovers s.cfg th.wt a (a + 47) then .area a
  else
    let one := (List.range 16).any (fun n => cmpCovers s.cfg n th.wt (a / 256) && cmpCovers s.cfg n th.wt ((a + 47) / 256))
    .fault fCOMPARTMENT (if a + 47 > 0xFFFF then 0x03 else if one then 0x02 else 0x01) head

/-- The saved words whose parity fails, and the list heads (step 3 of R83, R74). -/
def Thread.ctxParity (th : Thread) (l : List Saved) : Option Nat :=
  ((l ++ [(0x40 + iSAVEP, th.ctlP iSAVEP), (0x40 + iCTXL, th.ctlP iCTXL)]).find? (fun x => !parOk x.2)).map (·.1)

/-- The link exchange checks in its slot: the first failing word of the pair (R84, R85). -/
def State.ctxPair (s : State) (t a : Nat) (k : State) : State :=
  match s.badIn a 2 with
  | some x => (s.modThr t (fun th => th.slots 1)).faultP t fPARITY_LM 0x00 (wd x)
  | none => k

/-- Steps 1 and 2 of R83, then `k`: the thread is parked as a SETTLE of class 0 while an operation of it is outstanding, or an
instruction of it is held whose destination a save would read. -/
def ctxIssued (s : State) (t : Nat) (i : Instr) (p : Pre) (k : State → State) : Out :=
  issued s t i { p with sup := true } (fun s =>
    if (s.thr t).held ≠ [] then (s.dueMerges t).park t (.settle ((s.thr t).ops.map (·.id))) i else s.settle t 0 i k)

/-- A save of `acc` accesses: header `hdr`, saved words `l` from word 2 (R82 to R85). -/
def State.saveArea (s : State) (t acc : Nat) (hdr : Word) (l : List Saved) (more : List Word) : State :=
  let th := s.thr t
  match th.ctxParity l with
  | some aux => s.faultP t fPARITY_REG (BitVec.ofNat 8 aux) 0
  | none =>
    match s.ctxArea th (th.ctlW iSAVEP) 1 with
    | .fault code aux fa => s.faultP t code aux fa
    | .area a =>
      s.ctxPair t a
        (((s.msetList a ([th.ctlW iCTXL, hdr] ++ l.map (·.2.d) ++ more)).modThr t (fun th =>
          (th.setCtl iSAVEP (wd ((s.mget a).d.toNat &&& 0xFFFC))).setCtl iCTXL (wd a))).finishA t 1 acc)

/-- SAVEH. -/
def execSaveh (t : Tid) (s : State) : Out :=
  ctxIssued s t (.saveh t) {} (fun s =>
    let th := s.thr t
    if ¬ parOk (th.ctlP iWP) then s.faultP t fPARITY_REG (BitVec.ofNat 8 (0x40 + iWP)) 0
    else s.saveArea t 17 (wd (0x8000 + th.wp)) th.upper [])

/-- SAVEL: an operand in the window uses WP (R71, R74). -/
def execSavel (t : Tid) (rs : Reg) (s : State) : Out :=
  ctxIssued s t (.savel t rs) {} (fun s =>
    if 8 ≤ rs.val ∧ ¬ parOk ((s.thr t).ctlP iWP) then s.faultP t fPARITY_REG (BitVec.ofNat 8 (0x40 + iWP)) 0
    else s.saveArea t 15 0x4000 ((s.thr t).lower rs.val) [0])

/-- A restore of kind `kind`: the exchange of R84, then `load` on the words of the area (R85, R88). -/
def State.restArea (s : State) (t kind : Nat) (p : Pre) (load : State → Nat → State) : State :=
  let th := s.thr t
  match th.ctxParity [] with
  | some aux => s.faultP t fPARITY_REG (BitVec.ofNat 8 aux) 0
  | none =>
    match s.ctxArea th (th.ctlW iCTXL) 2 with
    | .fault code aux fa => s.faultP t code aux fa
    | .area a =>
      s.ctxPair t a
        (if fld (s.mget (a + 1)).d 15 14 ≠ kind then (s.modThr t (fun th => th.slots 1)).faultP t fSAVE_EMPTY 3 0
        else s.spilling t p (fun s =>
          let link := (s.mget a).d
          let hdr := (s.mget (a + 1)).d
          let s := (s.msetList a [th.ctlW iSAVEP, hdr]).modThr t (fun th =>
            (th.setCtl iCTXL (wd (link.toNat &&& 0xFFFC))).setCtl iSAVEP (wd a))
          load s a))

/-- Loads the words whose parity passes (R88). -/
def State.restWords (s : State) (t a : Nat) (l : List (Nat × (Thread → Word → Thread))) : State :=
  s.modThr t (fun th => l.foldl (fun th e =>
    let w := s.mget (a + e.1)
    if parOk w then e.2 th w.d else th) th)

/-- RESTH. -/
def execResth (t : Tid) (s : State) : Out :=
  let p : Pre := { spills := true }
  ctxIssued s t (.resth t) p (fun s => s.restArea t 2 p (fun s a =>
    let bad := s.badIn (a + 2) 32
    let wp := fld (s.mget (a + 1)).d 1 0
    let s := s.restWords t a ((List.range 32).map (fun i => (2 + i, fun th w => th.setRegN (8 + i) w)))
    let s := s.modThr t (fun th => th.setCtl iWP (wd wp))
    match bad with
    | some x => (s.modThr t (fun th => th.slots 17)).faultP t fPARITY_LM 0x01 (wd x)
    | none => s.finishA t 1 17))

/-- The destinations of words 2 to 28 of a SAVEL area but the PC value and PSW (R82, R86). -/
def lowerWords : List (Nat × (Thread → Word → Thread)) :=
  let c (k i : Nat) : Nat × (Thread → Word → Thread) := (k, fun th w => th.setCtl i (wd (w.toNat &&& ctlMask i)))
  (List.range 8).map (fun n => (2 + n, fun th w => th.setRegN n w)) ++ [c 12 iLCNT] ++
    (List.range 12).map (fun k => c (13 + k) (iXB + k)) ++ [c 25 iMROW, c 26 (iMROW + 1), c 27 iTVIEW, c 28 (iTVIEW + 1)]

/-- RESTL: PC is restored only when every word passes; when another word fails, PSW is loaded from a word that passes, and the frame
of the PARITY_LM records the PSW at issue (R86, R88). -/
def execRestl (t : Tid) (s : State) : Out :=
  ctxIssued s t (.restl t) {} (fun s => s.restArea t 1 {} (fun s a =>
    let bad := s.badIn (a + 2) 27
    let pc := (s.mget (a + 10)).d
    let old := (s.thr t).psw
    let s := (s.restWords t a lowerWords).restWords t a [(11, fun th w => th.setCtl iPSW (pswWrite th.psw w))]
    match bad with
    | some x => ((s.modThr t (fun th => th.slots 15)).faultP t fPARITY_LM 0x01 (wd x)).modThr t (fun th => { th with framePsw := some old })
    | none => (s.modThr t (fun th => th.slots 15)).finishAt t pc))

end Sys2Proof.Machine
end

