-- ==== Sys2Proof/Machine/LocalMem.lean ====
section
/-!
DEFINITION. Loads and stores of local memory (R111 to R113), watchpoints (R480), and the REP prefixes (R114 to R117).
-/
namespace Sys2Proof.Machine

/-- The watchpoint that an access of `n` words matches: its index, whether it traps, and the word (R480). -/
def State.watchAt (s : State) (t : Nat) (a : Word) (n : Nat) (store : Bool) : Option (Nat × Bool × Word) :=
  ((List.range 2).filterMap (fun i =>
    match Tab.find s.watches i with
    | some b =>
      if bit b.ctl 1 && (bit b.ctl 3 || decide (fld b.ctl 9 4 = t)) && bit b.ctl (if store then 11 else 10) then
        (((List.range n).map (fun k => a + wd k)).find? (fun w => b.lo.ule w && w.ule b.hi)).map (fun w => (i, bit b.ctl 2, w))
      else none
    | none => none)).head?

/-- The checks of a scalar access and its watchpoints (R113, R480): the access goes on, or its step ends. -/
def State.access (s : State) (t : Nat) (a : Word) (n : Nat) (store : Bool) : Gate :=
  let th := s.thr t
  if n = 2 ∧ bit a 0 then .stop (s.faultP t fALIGN 0 a)
  else if ¬ parOk (th.ctlP iTTAG) then .stop (s.faultP t fPARITY_REG (BitVec.ofNat 8 (0x40 + iTTAG)) 0)
  else
    match s.cmp th.wt a.toNat (if store then .w else .r) with
    | some aux => .stop (s.faultP t fCOMPARTMENT (BitVec.ofNat 8 aux) a)
    | none =>
      let s' := s.modThr t (fun th => { th with skipWatch := false })
      match (if th.skipWatch then none else s.watchAt t a n store) with
      | some (i, true, w) => .stop (s'.faultP t fDEBUG_BREAK (BitVec.ofNat 8 (0x10 + i)) w)
      | some (i, false, w) =>
        let fpc := (th.rep.map (·.tgt)).getD th.pc
        .stop ((s'.modThr t Thread.stopped).faultNotice t fDEBUG_BREAK (BitVec.ofNat 8 (0x10 + i)) fpc w [])
      | none => .go s'

/-- The base update of an access, by register number. -/
def baseUpd (th : Thread) (b : Option (Nat × Word)) : List (Nat × Word) :=
  match b with
  | some (r, w) => [(th.regNo r, w)]
  | none => []

/-- A load of `n` words into registers: base update first, so that a destination that is the base ends with the loaded value
(R112); a failing word faults in the data slot (R51). A load that spills reads its words after the spill, whose slots follow its fetch
(R430; log entry 52). DEDUCED (log entry 52): where such a load then fails a parity check it has had no effect (R420), so that
the spill is not done either, though its slots have passed. -/
def State.loadTo (s : State) (t : Nat) (p : Pre) (a : Word) (n : Nat) (dests : List Nat) (base : Option (Nat × Word)) : State :=
  match s.access t a n false with
  | .stop s => s
  | .go s =>
    match (if (s.thr t).mustSpill p then s.spillL t else s).badIn a.toNat n with
    | some x =>
      (s.modThr t (fun th => (th.slots (if th.mustSpill p then 4 else 0)).accesses 1)).faultP t fPARITY_LM 0x00 (wd x)
    | none =>
      s.spilling t p (fun s =>
        let ws := (s.mwords a.toNat n).map (·.d)
        (s.modThr t (fun th => (th.accesses 1).writes (baseUpd th base ++ (dests.map th.regNo).zip ws))).finish t p.words)

/-- A store of words read at issue (R112). -/
def State.storeFrom (s : State) (t : Nat) (p : Pre) (a : Word) (ws : List Word) (base : Option (Nat × Word)) : State :=
  match s.access t a ws.length true with
  | .stop s => s
  | .go s =>
    s.spilling t p (fun s =>
      ((s.msetList a.toNat ws).modThr t (fun th => (th.accesses 1).writes (baseUpd th base))).finish t p.words)

/-- The fields of a single or a pair. -/
def dataFields (n r : Nat) : List Nat := if n = 2 then pairOf r else [r]

def loadPre (n rd : Nat) (m : MAddr) : Pre :=
  { words := formWords m, reads := formRegs m, writes := dataFields n rd ++ (formUpd m).toList,
    illegal := if n = 2 then oddPair rd else none, target := decide (formWords m = 1) }

def storePre (n rs : Nat) (m : MAddr) : Pre :=
  { words := formWords m, reads := dataFields n rs ++ formRegs m, writes := (formUpd m).toList,
    illegal := if n = 2 then oddPair rs else none, target := decide (formWords m = 1) }

/-- A format M load of `n` words (R111). -/
def execLoad (i : Instr) (t : Tid) (n : Nat) (rd : Reg) (m : MAddr) (s : State) : Out :=
  let p := loadPre n rd.val m
  issued s t i p (fun s => s.loadTo t p (formAddr m (s.thr t) n) n (dataFields n rd.val) (formBase m (s.thr t) n))

/-- A format M store of `n` words (R111). -/
def execStore (i : Instr) (t : Tid) (n : Nat) (rs : Reg) (m : MAddr) (s : State) : Out :=
  let p := storePre n rs.val m
  issued s t i p (fun s =>
    s.storeFrom t p (formAddr m (s.thr t) n) ((dataFields n rs.val).map (s.thr t).reg) (formBase m (s.thr t) n))

/-- LD. -/
def execLd (t : Tid) (rd : Reg) (a : MAddr) (s : State) : Out := execLoad (.ld t rd a) t 1 rd a s
/-- ST. -/
def execSt (t : Tid) (rs : Reg) (a : MAddr) (s : State) : Out := execStore (.st t rs a) t 1 rs a s
/-- LD.P. -/
def execLdP (t : Tid) (rd : Reg) (a : MAddr) (s : State) : Out := execLoad (.ldP t rd a) t 2 rd a s
/-- ST.P. -/
def execStP (t : Tid) (rs : Reg) (a : MAddr) (s : State) : Out := execStore (.stP t rs a) t 2 rs a s

/-- LD of format X. -/
def execLdX (t : Tid) (rd : Reg) (lb gi : Reg3) (scale : BitVec 2) (s : State) : Out :=
  let p : Pre := { reads := [8 + lb.val, gi.val], writes := [rd.val], target := true }
  issued s t (.ldX t rd lb gi scale) p (fun s => s.loadTo t p (xAddr (s.thr t) lb gi scale) 1 [rd.val] none)

/-- ST of format X. -/
def execStX (t : Tid) (rs : Reg) (lb gi : Reg3) (scale : BitVec 2) (s : State) : Out :=
  let p : Pre := { reads := [rs.val, 8 + lb.val, gi.val], target := true }
  issued s t (.stX t rs lb gi scale) p (fun s =>
    s.storeFrom t p (xAddr (s.thr t) lb gi scale) [(s.thr t).reg rs.val] none)

/-! ## REP (R114 to R117) -/

/-- A REP prefix: `bad` when its operand is out of range, `limit` the largest count from LCNT. -/
def State.repeatBy (s : State) (t words : Nat) (inter bad : Bool) (limit operand : Nat) : State :=
  let th := s.thr t
  let l := (th.ctlW iLCNT).toNat
  if bad ∨ (l ≠ 0 ∧ l > limit) then (s.modThr t (fun th => th.setCtl iLCNT 0)).faultP t fILLEGAL 0x04 0
  else
    let c := if l ≠ 0 then l else operand
    if c = 0 then s.finishAt t (th.pc + 2)
    else
      s.modThr t (fun th =>
        { (th.setCtl iLCNT (wd c)) with
          waiting := none, again := false,
          rep := some { interruptible := inter, pfx := th.pc, tgt := th.pc + wd words, held := none } })

/-- REP.N. -/
def execRepN (t : Tid) (count : BitVec 7) (s : State) : Out :=
  issued s t (.repN t count) { uses := [iLCNT] } (fun s => s.repeatBy t 1 false (decide (count.toNat > 64)) 64 count.toNat)

/-- REP.I rs. -/
def execRepI (t : Tid) (rs : Reg) (s : State) : Out :=
  issued s t (.repI t rs) { reads := [rs.val], uses := [iLCNT] } (fun s =>
    s.repeatBy t 1 true false 65535 ((s.thr t).reg rs.val).toNat)

/-- REP.I imm16. -/
def execRepIImm (t : Tid) (imm : Word) (s : State) : Out :=
  issued s t (.repIImm t imm) { words := 2, uses := [iLCNT] } (fun s => s.repeatBy t 2 true (imm == 0) 65535 imm.toNat)

end Sys2Proof.Machine
end

