-- ==== Sys2Proof/Machine/Row.lean ====
section
/-!
DEFINITION. The row unit (file 11): the issue checks of R338, R345 and R346, the rotation of R347, the operations of R339 to R344,
and retirement (R348, R349, R352).
-/
namespace Sys2Proof.Machine

/-! ## Issue -/

/-- Operation codes of R339. -/
def oVADD : Nat := 0
def oVSUB : Nat := 1
def oVMUL : Nat := 2
def oVFMA : Nat := 3
def oVMAX : Nat := 4
def oVMIN : Nat := 5
def oVCMP : Nat := 6
def oVSEL : Nat := 7
def oVCVT : Nat := 8
def oVEXP2 : Nat := 9
def oVLOG2 : Nat := 10
def oVRCP : Nat := 11
def oVRSQ : Nat := 12
def oVRSUM : Nat := 13
def oVRMAX : Nat := 14
def oVSCALE : Nat := 15

/-- The operation uses TB. -/
def rowUsesB (op : Nat) : Bool := decide (op < 8) || decide (op = oVSCALE)
/-- The operation reads TD as a source. -/
def rowUsesD (op : Nat) : Bool := decide (op = oVFMA) || decide (op = oVSEL)
/-- The operation is a reduction. -/
def rowReduces (op : Nat) : Bool := decide (op = oVRSUM) || decide (op = oVRMAX)

/-- The encodings that R338 leaves undefined. -/
def rowIllegal (op bc rm : Nat) : Bool :=
  (decide (op = oVSCALE) && (decide (bc = 0) || decide (bc = 3))) || (decide (rm = 3) && decide (op ≠ oVCMP))

/-- TILE_SHAPE of R346: the AUX of the first condition. -/
def rowShapeBad (op bc : Nat) (sd sa sb : Word) : Option (BitVec 8) :=
  let differs (w : Word) : Bool := decide (shRows w ≠ shRows sd) || decide (shElems w ≠ shElems sd)
  let elemB := rowUsesB op && decide (bc = 0)
  if (if rowReduces op then decide (shElems sd < shRows sa) else differs sa || (elemB && differs sb)) then some 0x40
  else if rowUsesB op ∧ ((bc = 1 ∧ shElems sb < shRows sd) ∨ (bc = 2 ∧ shElems sb < shElems sd)) then some 0x41
  else if op = oVSCALE ∧ shType sb ≠ .fp32 then some 0x42
  else none

/-- A row-unit instruction (R345): it is handed off with the tiles, shapes, seed and SATF of its issue (R190, R197). -/
def execRow (i : Instr) (t : Tid) (op : Nat) (td ta tb : LTile) (bc rm : Nat) (s : State) : Out :=
  let tns := [ta.val] ++ (if rowUsesB op then [tb.val] else []) ++ [td.val]
  let p : Pre :=
    { words := 2, uses := tns.map tvIdx ++ [iMSEED, iMSEED + 1, iMCHK], long := true
      illegal := if rowIllegal op bc rm then some 0x01 else none, late := true }
  issued s t i p (fun s =>
    let th := s.thr t
    let sd := th.shape td.val
    let sa := th.shape ta.val
    let sb := th.shape tb.val
    s.viewed t tns (fun s =>
    match rowShapeBad op bc sd sa sb with
    | some aux => s.faultP t fTILE_SHAPE aux 0
    | none =>
      s.sound t tns (
      if (th.ops.filter (fun o => o.cls = 5)).length ≥ 2 then s.waitAt t i
      else
        let seed := th.mseed
        let s := s.modThr t (fun th => th.setMseed (seedNext seed))
        let (id, s) := s.handOff t 5 [] [] false 2
        let o : RowOp :=
          { id := id, tid := t, pc := th.pc, op := op, td := th.phys td.val, ta := th.phys ta.val, tb := th.phys tb.val, ltd := td,
            lta := ta, ltb := tb, sd := sd, sa := sa, sb := sb, bc := bc, rm := rm, seed := seed, satf := bit (th.useW iMCHK) 0 }
        { s with rowQ := s.rowQ ++ [o] })))

/-- VADD. -/
def execVadd (t : Tid) (td ta tb : LTile) (bc rm : BitVec 2) (s : State) : Out :=
  execRow (.vadd t td ta tb bc rm) t oVADD td ta tb bc.toNat rm.toNat s
/-- VSUB. -/
def execVsub (t : Tid) (td ta tb : LTile) (bc rm : BitVec 2) (s : State) : Out :=
  execRow (.vsub t td ta tb bc rm) t oVSUB td ta tb bc.toNat rm.toNat s
/-- VMUL. -/
def execVmul (t : Tid) (td ta tb : LTile) (bc rm : BitVec 2) (s : State) : Out :=
  execRow (.vmul t td ta tb bc rm) t oVMUL td ta tb bc.toNat rm.toNat s
/-- VFMA. -/
def execVfma (t : Tid) (td ta tb : LTile) (bc rm : BitVec 2) (s : State) : Out :=
  execRow (.vfma t td ta tb bc rm) t oVFMA td ta tb bc.toNat rm.toNat s
/-- VMAX. -/
def execVmax (t : Tid) (td ta tb : LTile) (bc rm : BitVec 2) (s : State) : Out :=
  execRow (.vmax t td ta tb bc rm) t oVMAX td ta tb bc.toNat rm.toNat s
/-- VMIN. -/
def execVmin (t : Tid) (td ta tb : LTile) (bc rm : BitVec 2) (s : State) : Out :=
  execRow (.vmin t td ta tb bc rm) t oVMIN td ta tb bc.toNat rm.toNat s
/-- VCMP. -/
def execVcmp (t : Tid) (td ta tb : LTile) (bc pred : BitVec 2) (s : State) : Out :=
  execRow (.vcmp t td ta tb bc pred) t oVCMP td ta tb bc.toNat pred.toNat s
/-- VSEL. -/
def execVsel (t : Tid) (td ta tb : LTile) (rm : BitVec 2) (s : State) : Out :=
  execRow (.vsel t td ta tb rm) t oVSEL td ta tb 0 rm.toNat s
/-- VCVT. -/
def execVcvt (t : Tid) (td ta : LTile) (rm : BitVec 2) (s : State) : Out :=
  execRow (.vcvt t td ta rm) t oVCVT td ta ta 0 rm.toNat s
/-- VEXP2. -/
def execVexp2 (t : Tid) (td ta : LTile) (rm : BitVec 2) (s : State) : Out :=
  execRow (.vexp2 t td ta rm) t oVEXP2 td ta ta 0 rm.toNat s
/-- VLOG2. -/
def execVlog2 (t : Tid) (td ta : LTile) (rm : BitVec 2) (s : State) : Out :=
  execRow (.vlog2 t td ta rm) t oVLOG2 td ta ta 0 rm.toNat s
/-- VRCP. -/
def execVrcp (t : Tid) (td ta : LTile) (rm : BitVec 2) (s : State) : Out :=
  execRow (.vrcp t td ta rm) t oVRCP td ta ta 0 rm.toNat s
/-- VRSQ. -/
def execVrsq (t : Tid) (td ta : LTile) (rm : BitVec 2) (s : State) : Out :=
  execRow (.vrsq t td ta rm) t oVRSQ td ta ta 0 rm.toNat s
/-- VRSUM. -/
def execVrsum (t : Tid) (td ta : LTile) (rm : BitVec 2) (s : State) : Out :=
  execRow (.vrsum t td ta rm) t oVRSUM td ta ta 0 rm.toNat s
/-- VRMAX. -/
def execVrmax (t : Tid) (td ta : LTile) (rm : BitVec 2) (s : State) : Out :=
  execRow (.vrmax t td ta rm) t oVRMAX td ta ta 0 rm.toNat s
/-- VSCALE. -/
def execVscale (t : Tid) (td ta tb : LTile) (bc rm : BitVec 2) (s : State) : Out :=
  execRow (.vscale t td ta tb bc rm) t oVSCALE td ta tb bc.toNat rm.toNat s

/-! ## The unit (R347) -/

/-- The oldest pending instruction of the first thread in rotation after `last`. -/
def rowNext (last : Nat) (q : List RowOp) : Option RowOp :=
  (List.range 64).findSome? (fun i => q.find? (fun o => o.tid = (last + 1 + i) % 64))

/-- ROW_START. -/
def execRowStart (s : State) : Out :=
  .next (if ¬ s.runs ∨ s.rowCur.isSome then s
    else match rowNext s.rowLast s.rowQ with
      | none => s
      | some o => { s with rowCur := some o, rowLast := o.tid, rowQ := s.rowQ.filter (fun q => q.id ≠ o.id) })

/-! ## Computation (R339 to R344) -/

/-- A source element after its flush: its exact value and whether it was flushed. -/
def State.rowElem (s : State) (tile : Nat) (w : Word) (r e : Nat) : FV × Bool :=
  inVal (shType w) ((shType w).extract (fun i => (s.tget tile (r * shWpr w + i)).d) e)

/-- The FP32 value that enters the computation: only INT32 is rounded (R340). -/
def enter32 (w : Word) (v : FV) : FV := if shType w = .int32 then rne32 v else v

/-- The larger, or the smaller, of two values (R339, R342). -/
def rowMax (a b : FV) : FV :=
  match FV.cmp b a with
  | none => .nan
  | some .gt => b
  | _ => a
def rowMin (a b : FV) : FV :=
  match FV.cmp b a with
  | none => .nan
  | some .lt => b
  | _ => a

/-- The predicates of VCMP (R339, R342). -/
def rowPred (pred : Nat) (a b : FV) : Bool :=
  let c := FV.cmp a b
  match pred with
  | 0 => c == some .eq
  | 1 => c == some .lt
  | 2 => c == some .lt || c == some .eq
  | _ => c != some .eq

/-- The result value of an element-wise operation from the exact sources a, b and d. -/
def RowOp.value (o : RowOp) (a b d : FV) : FV :=
  let a' := enter32 o.sa a
  let b' := enter32 o.sb b
  let d' := enter32 o.sd d
  match o.op with
  | 0 => rne32 (FV.add a' b')
  | 1 => rne32 (FV.add a' b'.neg)
  | 2 => rne32 (FV.mul a' b')
  | 3 => rne32 (FV.add (FV.mul a' b') d')
  | 4 => rowMax a' b'
  | 5 => rowMin a' b'
  | 6 => if rowPred o.rm a' b' then .fin false 1 0 else .zero
  | 7 => if d.isZero then b else a
  | 8 => a
  | 9 => vexp2 a'
  | 10 => vlog2 a'
  | 11 => vrcp a'
  | 12 => vrsq a'
  | _ => rne32 (FV.mul a' b')

/-- One level of a reduction tree; a node with one absent input passes the other (R343). -/
def treeLevel (f : FV → FV → FV) : List FV → List FV
  | a :: b :: l => f a b :: treeLevel f l
  | l => l
/-- The value of a chunk of at most 16 elements. -/
def treeVal (f : FV → FV → FV) (l : List FV) : FV := (treeLevel f (treeLevel f (treeLevel f (treeLevel f l)))).headD .zero
/-- The reduction of a row (R343). -/
def rowReduce (f : FV → FV → FV) (l : List FV) : FV :=
  let ts := (List.range (cdiv l.length 16)).map (fun c => treeVal f ((l.drop (16 * c)).take 16))
  ts.tail.foldl f (ts.headD .zero)

/-- Adds counts to the row unit's counters (R211, R482). -/
def State.countRow (s : State) (c : Counts) : State :=
  (((s.count 0x10 c.flushi).count 0x11 c.flusho).count 0x12 c.satc).count 0x13 c.nanc

/-- Conversion of one result to the type of TD by lane `e` mod 16 (R196, R199, R340). -/
def RowOp.convert (o : RowOp) (lanes : List Word32) (e : Nat) (v : FV) : List Word32 × Nat × Counts :=
  let (lanes, rnd) := stepLane lanes e
  let mode := if o.op = oVCMP then .rne else RMode.ofCode o.rm rnd
  let (b, c) := convOut (shType o.sd) mode o.satf v
  (lanes, b, c)

/-- What the unit has done so far: the state, the lanes, the counts, and the find that stopped it. -/
structure RowRun where
  s : State
  lanes : List Word32
  cnt : Counts
  find : Option (Nat × Find)
  deriving DecidableEq, Repr

/-- The find in row `r` of a source tile. -/
def State.rowFind (s : State) (tile lt : Nat) (w : Word) (r : Nat) : Option (Nat × Find) :=
  (s.tileFind tile lt (r * shWpr w) (shWpr w)).map (fun f => (tile, f))

/-- Row `r` of an element-wise operation; `bcast` is row 0 of TB as it was read in row 0 (R341, R348, R349). -/
def RowOp.doRow (o : RowOp) (bcast : List (FV × Bool)) (q : RowRun) (r : Nat) : RowRun :=
  if q.find.isSome then q
  else
    let s := q.s
    let useB := rowUsesB o.op
    let elemB := useB && decide (o.bc = 0)
    let find :=
      [ s.rowFind o.ta o.lta o.sa r
      , if elemB then s.rowFind o.tb o.ltb o.sb r else if useB && decide (r = 0) then s.rowFind o.tb o.ltb o.sb 0 else none
      , if rowUsesD o.op then s.rowFind o.td o.ltd o.sd r else none ].findSome? (fun x => x)
    match find with
    | some f => { q with s := s.setPoison f.1 true, find := some f }
    | none =>
      let n := shElems o.sd + 1
      let flushB := if useB && !elemB && decide (r = 0) then (bcast.filter (·.2)).length else 0
      let els := (List.range n).map (fun e =>
        let a := s.rowElem o.ta o.sa r e
        let b :=
          if elemB then s.rowElem o.tb o.sb r e
          else ((bcast.getD (if o.bc = 1 then r else if o.bc = 2 then e else 0) (.zero, false)).1, false)
        let d := if rowUsesD o.op then s.rowElem o.td o.sd r e else (.zero, false)
        (o.value a.1 b.1 d.1, b2n a.2 + b2n b.2 + b2n d.2))
      let res := ((List.range n).zip els).foldl (fun (z : List Word32 × List Nat × Counts) e =>
        let (l, b, c) := o.convert z.1 e.1 e.2.1
        (l, z.2.1 ++ [b], (z.2.2.plus c).plus (Counts.flushIn e.2.2))) (q.lanes, [], Counts.flushIn flushB)
      { q with
        s := s.tsetList o.td (r * shWpr o.sd) ((shType o.sd).pack res.2.1)
        lanes := res.1
        cnt := q.cnt.plus res.2.2 }

/-- The elements of row 0 of TB that a broadcast uses (R341). -/
def RowOp.bcastRow (o : RowOp) (s : State) : List (FV × Bool) :=
  if ¬ rowUsesB o.op ∨ o.bc = 0 then []
  else
    (List.range (if o.bc = 1 then shRows o.sd + 1 else if o.bc = 2 then shElems o.sd + 1 else 1)).map (s.rowElem o.tb o.sb 0)

/-- An element-wise operation. -/
def RowOp.elementWise (o : RowOp) (s : State) : RowRun :=
  let start : RowRun := ⟨s, laneSeeds o.seed 0, Counts.zero, none⟩
  (List.range (shRows o.sd + 1)).foldl (o.doRow (o.bcastRow s)) start

/-- A reduction: every row of TA is read, then row 0 of TD is written (R343, R349). -/
def RowOp.reduction (o : RowOp) (s : State) : RowRun :=
  let rows := shRows o.sa + 1
  let n := shElems o.sa + 1
  let bad (r : Nat) : Option (Nat × Find) := s.rowFind o.ta o.lta o.sa r
  let read := (List.range rows).takeWhile (fun r => (bad r).isNone)
  let vals := read.map (fun r => (List.range n).map (s.rowElem o.ta o.sa r))
  let flushed := vals.foldl (fun c l => c + (l.filter (·.2)).length) 0
  match (if read.length = rows then none else bad read.length) with
  | some f => ⟨s.setPoison f.1 true, laneSeeds o.seed 0, Counts.flushIn flushed, some f⟩
  | none =>
    let f : FV → FV → FV := if o.op = oVRSUM then fun x y => rne32 (FV.add x y) else rowMax
    let red := vals.map (fun l => rowReduce f (l.map (fun v => enter32 o.sa v.1)))
    let res := ((List.range rows).zip red).foldl (fun (z : List Word32 × List Nat × Counts) e =>
      let (l, b, c) := o.convert z.1 e.1 e.2
      (l, z.2.1 ++ [b], z.2.2.plus c)) (laneSeeds o.seed 0, [], Counts.flushIn flushed)
    let elems := res.2.1 ++ List.replicate (shElems o.sd + 1 - rows) 0
    ⟨s.tsetList o.td 0 ((shType o.sd).pack elems), res.1, res.2.2, none⟩

/-- ROW_RETIRE: the rows are computed and written, the tallies written, and the instruction retires (R214, R348, R352). -/
def execRowRetire (s : State) : Out :=
  .next (if ¬ s.flows then s
    else match s.rowCur with
      | none => s
      | some o =>
        let q := if rowReduces o.op then o.reduction s else o.elementWise s
        let s : State := { q.s with rowCur := none }
        let s := (s.countRow q.cnt).modThr o.tid (fun th =>
          if th.ops.any (fun p => p.id = o.id) then th.setTallies s.cycle o.id q.cnt else th)
        let s := match q.find with
          | some (_, f) => s.complete o.tid o.id (item f.code f.aux o.pc f.faddr)
          | none => s
        s.retire o.tid o.id [])

end Sys2Proof.Machine
end

