-- ==== Sys2Proof/Machine/Scalar.lean ====
section
/-!
DEFINITION. Operations on registers (R105 to R110): the register-to-register instructions, multiply and divide.
-/
namespace Sys2Proof.Machine

/-- ADD (R105). -/
def execAdd (t : Tid) (rd ra rb : Reg) (s : State) : Out := execAlu (.add t rd ra rb) t .add [ra, rb] [rd] 1 true s

/-- SUB (R105). -/
def execSub (t : Tid) (rd ra rb : Reg) (s : State) : Out := execAlu (.sub t rd ra rb) t .sub [ra, rb] [rd] 1 true s

/-- SEQ (R105). -/
def execSeq (t : Tid) (rd ra rb : Reg) (s : State) : Out := execAlu (.seq t rd ra rb) t .seq [ra, rb] [rd] 1 true s

/-- SNE (R105). -/
def execSne (t : Tid) (rd ra rb : Reg) (s : State) : Out := execAlu (.sne t rd ra rb) t .sne [ra, rb] [rd] 1 true s

/-- SLT (R105). -/
def execSlt (t : Tid) (rd ra rb : Reg) (s : State) : Out := execAlu (.slt t rd ra rb) t .slt [ra, rb] [rd] 1 true s

/-- SLTU (R105). -/
def execSltu (t : Tid) (rd ra rb : Reg) (s : State) : Out := execAlu (.sltu t rd ra rb) t .sltu [ra, rb] [rd] 1 true s

/-- SLE (R105). -/
def execSle (t : Tid) (rd ra rb : Reg) (s : State) : Out := execAlu (.sle t rd ra rb) t .sle [ra, rb] [rd] 1 true s

/-- SLEU (R105). -/
def execSleu (t : Tid) (rd ra rb : Reg) (s : State) : Out := execAlu (.sleu t rd ra rb) t .sleu [ra, rb] [rd] 1 true s

/-- MOV (R106). -/
def execMov (t : Tid) (rd rs : Reg) (s : State) : Out := execAlu (.mov t rd rs) t .mov [rs] [rd] 1 true s

/-- AND (R106). -/
def execAnd (t : Tid) (rd rs : Reg) (s : State) : Out := execAlu (.and t rd rs) t .and [rd, rs] [rd] 1 true s

/-- OR (R106). -/
def execOr (t : Tid) (rd rs : Reg) (s : State) : Out := execAlu (.or t rd rs) t .or [rd, rs] [rd] 1 true s

/-- XOR (R106). -/
def execXor (t : Tid) (rd rs : Reg) (s : State) : Out := execAlu (.xor t rd rs) t .xor [rd, rs] [rd] 1 true s

/-- SHL (R106). -/
def execShl (t : Tid) (rd rs : Reg) (s : State) : Out := execAlu (.shl t rd rs) t .shl [rd, rs] [rd] 1 true s

/-- SHR (R106). -/
def execShr (t : Tid) (rd rs : Reg) (s : State) : Out := execAlu (.shr t rd rs) t .shr [rd, rs] [rd] 1 true s

/-- SRA (R106). -/
def execSra (t : Tid) (rd rs : Reg) (s : State) : Out := execAlu (.sra t rd rs) t .sra [rd, rs] [rd] 1 true s

/-- ROL (R106). -/
def execRol (t : Tid) (rd rs : Reg) (s : State) : Out := execAlu (.rol t rd rs) t .rol [rd, rs] [rd] 1 true s

/-- NOT (R106). -/
def execNot (t : Tid) (rd rs : Reg) (s : State) : Out := execAlu (.not t rd rs) t .not [rs] [rd] 1 true s

/-- NEG (R106). -/
def execNeg (t : Tid) (rd rs : Reg) (s : State) : Out := execAlu (.neg t rd rs) t .neg [rs] [rd] 1 true s

/-- ADDI (R108). -/
def execAddi (t : Tid) (rd : Reg) (simm : BitVec 4) (s : State) : Out :=
  execAlu (.addi t rd simm) t (.addi simm) [rd] [rd] 1 true s

/-- SHLI (R108). -/
def execShli (t : Tid) (rd : Reg) (count : BitVec 4) (s : State) : Out :=
  execAlu (.shli t rd count) t (.shli count) [rd] [rd] 1 true s

/-- SHRI (R108). -/
def execShri (t : Tid) (rd : Reg) (count : BitVec 4) (s : State) : Out :=
  execAlu (.shri t rd count) t (.shri count) [rd] [rd] 1 true s

/-- SRAI (R108). -/
def execSrai (t : Tid) (rd : Reg) (count : BitVec 4) (s : State) : Out :=
  execAlu (.srai t rd count) t (.srai count) [rd] [rd] 1 true s

/-- ZXB (R108). -/
def execZxb (t : Tid) (rd : Reg) (s : State) : Out := execAlu (.zxb t rd) t .zxb [rd] [rd] 1 true s

/-- SXB (R108). -/
def execSxb (t : Tid) (rd : Reg) (s : State) : Out := execAlu (.sxb t rd) t .sxb [rd] [rd] 1 true s

/-- ZXN (R108). -/
def execZxn (t : Tid) (rd : Reg) (s : State) : Out := execAlu (.zxn t rd) t .zxn [rd] [rd] 1 true s

/-- SXN (R108). -/
def execSxn (t : Tid) (rd : Reg) (s : State) : Out := execAlu (.sxn t rd) t .sxn [rd] [rd] 1 true s

/-- SWB (R108). -/
def execSwb (t : Tid) (rd : Reg) (s : State) : Out := execAlu (.swb t rd) t .swb [rd] [rd] 1 true s

/-- MOV rd, imm16 (R108). -/
def execMovImm (t : Tid) (rd : Reg) (imm : Word) (s : State) : Out :=
  execAlu (.movImm t rd imm) t (.movImm imm) [] [rd] 2 false s

/-- ADD rd, imm16 (R108). -/
def execAddImm (t : Tid) (rd : Reg) (imm : Word) (s : State) : Out :=
  execAlu (.addImm t rd imm) t (.addImm imm) [rd] [rd] 2 false s

/-- AND rd, imm16 (R108). -/
def execAndImm (t : Tid) (rd : Reg) (imm : Word) (s : State) : Out :=
  execAlu (.andImm t rd imm) t (.andImm imm) [rd] [rd] 2 false s

/-- OR rd, imm16 (R108). -/
def execOrImm (t : Tid) (rd : Reg) (imm : Word) (s : State) : Out :=
  execAlu (.orImm t rd imm) t (.orImm imm) [rd] [rd] 2 false s

/-- XOR rd, imm16 (R108). -/
def execXorImm (t : Tid) (rd : Reg) (imm : Word) (s : State) : Out :=
  execAlu (.xorImm t rd imm) t (.xorImm imm) [rd] [rd] 2 false s

/-- SEQ rd, imm16 (R108). -/
def execSeqImm (t : Tid) (rd : Reg) (imm : Word) (s : State) : Out :=
  execAlu (.seqImm t rd imm) t (.seqImm imm) [rd] [rd] 2 false s

/-- SLT rd, imm16 (R108). -/
def execSltImm (t : Tid) (rd : Reg) (imm : Word) (s : State) : Out :=
  execAlu (.sltImm t rd imm) t (.sltImm imm) [rd] [rd] 2 false s

/-- SLTU rd, imm16 (R108). -/
def execSltuImm (t : Tid) (rd : Reg) (imm : Word) (s : State) : Out :=
  execAlu (.sltuImm t rd imm) t (.sltuImm imm) [rd] [rd] 2 false s

/-- ADC (R110): writes rd, then rc. -/
def execAdc (t : Tid) (rd rs rc : Reg) (s : State) : Out := execAlu (.adc t rd rs rc) t .adc [rd, rs, rc] [rd, rc] 2 false s

/-- SBC (R110): writes rd, then rc. -/
def execSbc (t : Tid) (rd rs rc : Reg) (s : State) : Out := execAlu (.sbc t rd rs rc) t .sbc [rd, rs, rc] [rd, rc] 2 false s

/-! ## Multiply and divide -/

def MulDiv.isDiv : MulDiv → Bool
  | .mul | .mulu => false
  | _ => true

/-- The issue requirements of a multiply or divide (R54, R107). -/
def mulDivPre (op : MulDiv) (a b d : Nat) : Pre :=
  { reads := [a, b], writes := if op.isDiv then [d] else pairOf d, long := true, illegal := if op.isDiv then none else oddPair d }

/-- The settle distance (R54). -/
def MulDiv.dist (op : MulDiv) : Nat := if op.isDiv then 9 else 2

/-- A long operation of class MULDIV: a zero divisor faults at issue, else the operation is handed off (R54, R60). -/
def execMulDiv (i : Instr) (t : Tid) (op : MulDiv) (a b d : Reg) (s : State) : Out :=
  let p := mulDivPre op a.val b.val d.val
  issued s t i p (fun s =>
    let th := s.thr t
    let y := th.reg b.val
    if op.isDiv && y == 0 then s.faultP t fDIV_ZERO 0 0
    else s.spilling t p (fun s => (s.handOffIn t op.dist 1 p.writes (op.eval (th.reg a.val) y) false 1).2))

/-- DIV: signed quotient of ra by rb (R105, R107). -/
def execDiv (t : Tid) (rd ra rb : Reg) (s : State) : Out := execMulDiv (.div t rd ra rb) t .div ra rb rd s

/-- MUL (R106, R107). -/
def execMul (t : Tid) (rd rs : Reg) (s : State) : Out := execMulDiv (.mul t rd rs) t .mul rd rs rd s

/-- MULU (R106, R107). -/
def execMulu (t : Tid) (rd rs : Reg) (s : State) : Out := execMulDiv (.mulu t rd rs) t .mulu rd rs rd s

/-- DIVU (R106, R107). -/
def execDivu (t : Tid) (rd rs : Reg) (s : State) : Out := execMulDiv (.divu t rd rs) t .divu rd rs rd s

/-- REM (R106, R107). -/
def execRem (t : Tid) (rd rs : Reg) (s : State) : Out := execMulDiv (.rem t rd rs) t .rem rd rs rd s

/-- REMU (R106, R107). -/
def execRemu (t : Tid) (rd rs : Reg) (s : State) : Out := execMulDiv (.remu t rd rs) t .remu rd rs rd s

end Sys2Proof.Machine
end

