-- ==== Sys2Proof/Machine/Run.lean ====
section
/-!
DEFINITION. The meaning of a thread's instruction by name, for the instruction that waits at issue (R58, R64): each arm is the
arm of `exec`.
-/
namespace Sys2Proof.Machine

/-- The meaning of a thread's instruction; a command that no thread issues changes nothing. -/
def runInstr (i : Instr) (s : State) : Out :=
  match i with
  | .add t rd ra rb => execAdd t rd ra rb s
  | .sub t rd ra rb => execSub t rd ra rb s
  | .seq t rd ra rb => execSeq t rd ra rb s
  | .sne t rd ra rb => execSne t rd ra rb s
  | .slt t rd ra rb => execSlt t rd ra rb s
  | .sltu t rd ra rb => execSltu t rd ra rb s
  | .sle t rd ra rb => execSle t rd ra rb s
  | .sleu t rd ra rb => execSleu t rd ra rb s
  | .div t rd ra rb => execDiv t rd ra rb s
  | .mov t rd rs => execMov t rd rs s
  | .and t rd rs => execAnd t rd rs s
  | .or t rd rs => execOr t rd rs s
  | .xor t rd rs => execXor t rd rs s
  | .shl t rd rs => execShl t rd rs s
  | .shr t rd rs => execShr t rd rs s
  | .sra t rd rs => execSra t rd rs s
  | .rol t rd rs => execRol t rd rs s
  | .not t rd rs => execNot t rd rs s
  | .neg t rd rs => execNeg t rd rs s
  | .mul t rd rs => execMul t rd rs s
  | .mulu t rd rs => execMulu t rd rs s
  | .divu t rd rs => execDivu t rd rs s
  | .rem t rd rs => execRem t rd rs s
  | .remu t rd rs => execRemu t rd rs s
  | .addi t rd c => execAddi t rd c s
  | .shli t rd c => execShli t rd c s
  | .shri t rd c => execShri t rd c s
  | .srai t rd c => execSrai t rd c s
  | .zxb t rd => execZxb t rd s
  | .sxb t rd => execSxb t rd s
  | .zxn t rd => execZxn t rd s
  | .sxn t rd => execSxn t rd s
  | .swb t rd => execSwb t rd s
  | .movImm t rd v => execMovImm t rd v s
  | .addImm t rd v => execAddImm t rd v s
  | .andImm t rd v => execAndImm t rd v s
  | .orImm t rd v => execOrImm t rd v s
  | .xorImm t rd v => execXorImm t rd v s
  | .seqImm t rd v => execSeqImm t rd v s
  | .sltImm t rd v => execSltImm t rd v s
  | .sltuImm t rd v => execSltuImm t rd v s
  | .adc t rd rs rc => execAdc t rd rs rc s
  | .sbc t rd rs rc => execSbc t rd rs rc s
  | .bz t rs off => execBz t rs off s
  | .bnz t rs off => execBnz t rs off s
  | .bzL t rs a => execBzL t rs a s
  | .bnzL t rs a => execBnzL t rs a s
  | .jmp t a => execJmp t a s
  | .jmpReg t rs => execJmpReg t rs s
  | .call t a => execCall t a s
  | .callReg t rs => execCallReg t rs s
  | .ret t => execRet t s
  | .ld t rd a => execLd t rd a s
  | .st t rs a => execSt t rs a s
  | .ldP t rd a => execLdP t rd a s
  | .stP t rs a => execStP t rs a s
  | .ldX t rd lb gi k => execLdX t rd lb gi k s
  | .stX t rs lb gi k => execStX t rs lb gi k s
  | .repN t c => execRepN t c s
  | .repI t rs => execRepI t rs s
  | .repIImm t v => execRepIImm t v s
  | .ldf t n rd o => execLdf t n rd o s
  | .ldfP t n rd o => execLdfP t n rd o s
  | .stf t n rs o => execStf t n rs o s
  | .stfP t n rs o => execStfP t n rs o s
  | .nop t => execNop t s
  | .settle t c => execSettle t c s
  | .sync t => execSync t s
  | .wait t v => execWait t v s
  | .gate t n => execGate t n s
  | .eret t => execEret t s
  | .dlarmA t rp => execDlarmA t rp s
  | .dlarmB t rp => execDlarmB t rp s
  | .dlarmBw t rp => execDlarmBw t rp s
  | .dldisA t => execDldisA t s
  | .dldisB t => execDldisB t s
  | .mfc t rd i => execMfc t rd i s
  | .mtc t i rs => execMtc t i rs s
  | .saveh t => execSaveh t s
  | .savel t rs => execSavel t rs s
  | .resth t => execResth t s
  | .restl t => execRestl t s
  | .tcfgI t tn w => execTcfgI t tn w s
  | .tcfgR t tn rs => execTcfgR t tn rs s
  | .syncT t => execSyncT t s
  | .tget t rd tn => execTget t rd tn s
  | .tld t tn ra rs b => execTld t tn ra rs b s
  | .tldU t tn ra rs => execTldU t tn ra rs s
  | .tst t tn ra rs b => execTst t tn ra rs b s
  | .tstU t tn ra rs => execTstU t tn ra rs s
  | .tzero t tn => execTzero t tn s
  | .mstat t a tn sh p => execMstat t a tn sh p s
  | .mstatC t a rs sh p k => execMstatC t a rs sh p k s
  | .mstream t a rs => execMstream t a rs s
  | .mtab t a tn p => execMtab t a tn p s
  | .vadd t td ta tb bc rm => execVadd t td ta tb bc rm s
  | .vsub t td ta tb bc rm => execVsub t td ta tb bc rm s
  | .vmul t td ta tb bc rm => execVmul t td ta tb bc rm s
  | .vfma t td ta tb bc rm => execVfma t td ta tb bc rm s
  | .vmax t td ta tb bc rm => execVmax t td ta tb bc rm s
  | .vmin t td ta tb bc rm => execVmin t td ta tb bc rm s
  | .vcmp t td ta tb bc pr => execVcmp t td ta tb bc pr s
  | .vsel t td ta tb rm => execVsel t td ta tb rm s
  | .vcvt t td ta rm => execVcvt t td ta rm s
  | .vexp2 t td ta rm => execVexp2 t td ta rm s
  | .vlog2 t td ta rm => execVlog2 t td ta rm s
  | .vrcp t td ta rm => execVrcp t td ta rm s
  | .vrsq t td ta rm => execVrsq t td ta rm s
  | .vrsum t td ta rm => execVrsum t td ta rm s
  | .vrmax t td ta rm => execVrmax t td ta rm s
  | .vscale t td ta tb bc rm => execVscale t td ta tb bc rm s
  | .sendW t e ln => execSendW t e ln s
  | .sendE t e => execSendE t e s
  | .sendC t rd e => execSendC t rd e s
  | .recv t rd e => execRecv t rd e s
  | .recvC t rd e => execRecvC t rd e s
  | .fdone t e => execFdone t e s
  | .fclose t e => execFclose t e s
  | .fland t e tn => execFland t e tn s
  | .finfoS t rd e => execFinfoS t rd e s
  | .finfoN t rd e => execFinfoN t rd e s
  | .finfoP t rd e => execFinfoP t rd e s
  | .skid t n rs => execSkid t n rs s
  | .skstat t rd n => execSkstat t rd n s
  | .skstop t n => execSkstop t n s
  | .clockStep t n => execClockStep t n s
  | .arrayTest t n => execArrayTest t n s
  | .seedReset t n => execSeedReset t n s
  | .freq t n => execFreq t n s
  | .clearTally t n => execClearTally t n s
  | .notifyHost t n => execNotifyHost t n s
  | .undefinedEncoding t => execUndefinedEncoding t s
  | _ => .next s

end Sys2Proof.Machine
end

