-- ==== Sys2Proof/Machine/Events.lean ====
section
/-!
DEFINITION. What happens to a thread between its instructions: exception entry, resuming from a park, the dispatch of held
instructions, the issue of a waiting one, retirement of multiplies and divides, deadlines, halts (files 02, 14, 15); the cruise
scrubber (R143, R144) and the sending of notices (R446).
-/
namespace Sys2Proof.Machine

/-- EXCEPTION_ENTRY. -/
def execExceptionEntry (t : Tid) (s : State) : Out := .next (if s.runs then s.exceptionEntry t else s)

/-- A parked instruction whose condition is true executes in the thread's slot, without a new fetch (R68). -/
def State.goesOn (s : State) (t : Nat) (i : Instr) : State :=
  let s' := s.modThr t (fun th => { th.unpark with again := true })
  if ¬ s'.canIssue t then s
  else match runInstr i s' with
    | .next s => s
    | _ => s

/-- The resumption of a parked thread whose condition is true (R68, R83, R125, R127, R273, R362, R364). A WAIT does not complete
while an item is to be taken: its own event, where it is deliverable, is taken (R127). -/
def State.resume (s : State) (t : Nat) (k : ParkKind) (i : Instr) : State :=
  let wake (s : State) : State := s.modThr t Thread.unpark
  match k, i with
  | .sendE e, _ => if (s.fend e).resv then (wake s).sendNow t e 1 i else s
  | .recv e, .recv _ rd _ =>
    if ¬ s.recvReady e then s
    else if s.takeWaits e then (wake s).waitAt t i
    else ((wake s).take e).writeDone t { words := 2, writes := [rd.val] } [s.takeVal e]
  | .wait v, _ => if bit ((s.thr t).ctlW iEVPEND) v ∧ (s.choose t).isNone then (wake s).finish t 1 else s
  | .settle ids, .settle _ _ => if ids.any (s.hasOp t) then s else (wake s).finish t 1
  | .settle ids, i => if ids.any (s.hasOp t) ∨ (s.thr t).held ≠ [] then s else s.goesOn t i
  | .array a, i => if s.arrayReady a then s.goesOn t i else s
  | _, _ => s

/-- PARK_RESUME. -/
def execParkResume (t : Tid) (s : State) : Out :=
  .next (
    match (s.thr t).st, (s.thr t).park with
    | .parked, some p => if ¬ s.runs ∨ (s.thr t).haltReq.isSome then s else s.resume t p.kind p.instr
    | _, _ => s)

/-- The source values of a held instruction once all are readable. -/
def Held.vals (h : Held) : Option (List Word) :=
  h.srcs.mapM (fun x => match x with
    | .val w => some w
    | .dep _ _ => none)

/-- HELD_DISPATCH: the oldest held instruction that is ready computes and writes, in a slot that fetches nothing (R62, R63, R65). -/
def execHeldDispatch (t : Tid) (s : State) : Out :=
  let th := s.thr t
  .next (if ¬ s.runs ∨ ¬ (th.st = .running ∨ th.st = .parked) then s
    else match th.held.find? (fun h => h.vals.isSome && decide (h.after = [])) with
      | none => s
      | some h =>
        s.modThr t (fun th =>
          let th := { th.slots 1 with held := th.held.filter (fun g => g.id ≠ h.id) }
          th.produce h.id (h.dests.zip (h.op.eval (h.vals.getD [])))))

/-- The caller of a service that waits for the service of another thread to end (R414, R455). -/
def Thread.svcWaits (th : Thread) : Bool := decide (th.service = some ⟨0, 0⟩)

/-- A waiting instruction issues no more before an item is taken or the thread halts (R65, R419, R472): not in REP.N, and not in the
hold of a GATE service. -/
def State.yields (s : State) (t : Nat) : Bool :=
  let th := s.thr t
  !th.inRepN && !th.svcWaits && (th.haltReq.isSome || (s.choose t).isSome)

/-- CAPACITY_WAIT_ISSUE: the waiting instruction is tried again (R58, R64). -/
def execCapacityWaitIssue (t : Tid) (s : State) : Out :=
  match (s.thr t).waiting with
  | none => .next s
  | some i =>
    let s' := s.modThr t (fun th => { th with again := true, service := if th.svcWaits then none else th.service })
    if ¬ s'.canIssue t ∨ s.yields t then .next s else runInstr i s'

/-- The thread's slots pass without an instruction: it is not RUNNING, or it waits, or a hold lets nothing issue (R58, R61, R64, R65,
R67, R414). -/
def State.slotsIdle (s : State) (t : Nat) : Bool :=
  let th := s.thr t
  decide (th.st ≠ .running) || th.waiting.isSome || th.service.isSome || (th.precise && decide (th.ops ≠ [])) ||
    (decide (th.held ≠ []) && (th.sync.isSome || th.haltReq.isSome || (s.choose t).isSome))

/-- The operation is the next of the thread's multiplies and divides to retire: none is due in an earlier slot, and none issued
before it is due in the same one (R56, R59). -/
def Thread.firstDue (th : Thread) (o : LongOp) : Bool :=
  th.ops.all (fun q => decide (q.cls ≠ 1) || decide (o.due < q.due) || (decide (q.due = o.due) && decide (o.id ≤ q.id)))

/-- MULDIV_RETIRE: the `k`-th pending multiply or divide of the thread, oldest first, retires when its settle distance has passed:
the thread's next slot reads the result, or slots pass in which nothing issues (R54 to R56, R59). -/
def execMuldivRetire (t : Tid) (k : Nat) (s : State) : Out :=
  let th := s.thr t
  .next (if ¬ s.runs then s
    else match (th.ops.filter (fun o => o.cls = 1))[k]? with
      | none => s
      | some o =>
        if ¬ th.firstDue o ∨ ¬ (o.due ≤ th.slotNo ∨ s.slotsIdle t) then s
        else (s.modThr t (fun th => { th with slotNo := max th.slotNo o.due })).retire t o.id o.res)

/-! ## Deadlines (R380, R439, R440) -/

/-- DEADLINE_A. -/
def execDeadlineA (t : Tid) (s : State) : Out :=
  .next (if ¬ s.runs ∨ ¬ (s.thr t).dlaDue then s
    else (s.modThr t (fun th => { th with dlaDue := false })).deadline t fDEADLINE_A [])

/-- DEADLINE_B: after a DEADLINE_A of the same cycle; the notice of a thread parked on an end carries the peer (R380). -/
def execDeadlineB (t : Tid) (s : State) : Out :=
  .next (if ¬ s.runs ∨ ¬ (s.thr t).dlbDue ∨ (s.thr t).dlaDue then s
    else (s.modThr t (fun th => { th with dlbDue := false })).deadline t fDEADLINE_B ((s.thr t).waitPeer s.cfg))

/-! ## Halts (R472, R474, R478) -/

/-- Answers DBG_HALT or DBG_STEP about a thread that no longer runs; the time-out of a THREAD_STOP of it begins (R474). -/
def State.haltReply (s : State) (t : Nat) (parked : Bool) : State :=
  match s.atpCur with
  | some (c, .stop u p1 none) => if u = t then { s with atpCur := some (c, .stop u p1 (some s.mclk)) } else s
  | some (_, .halt u) => if u = t then s.atpEnd aDONE [(s.thr t).pc] else s
  | some (_, .step u) => if u = t then s.atpEnd aDONE [(s.thr t).pc, wd (b2n parked)] else s
  | _ => s

/-- The thread becomes HALTED at its PC. -/
def State.halt (s : State) (t : Nat) (parked : Bool) : State :=
  (s.modThr t Thread.stopped).haltReply t parked

/-- HALT_POINT: the thread has reached a point of R419; a thread that stopped running otherwise ends the wait of its command. A
step that parked says so (R478). DESIGN CHOICE (log entry 59): R239 and R307 name DBG_HALT, and R478 calls a step one instruction; a step of
a TLD, TST or MSTREAM under PSW.PRECISE halts as DBG_HALT does, at its next row or pass boundary with PC back at it. -/
def execHaltPoint (t : Tid) (s : State) : Out :=
  let th := s.thr t
  let parked := decide (th.haltReq = some .stepParked)
  .next (
    match th.st with
    | .parked => if s.runs ∧ th.held = [] ∧ th.haltReq.isSome then (s.modThr t Thread.unpark).halt t parked else s
    | .running =>
      if ¬ s.runs ∨ th.haltReq = none ∨ th.inRepN ∨ th.service.isSome ∨ th.held ≠ [] then s
      else if th.precise ∧ th.ops ≠ [] then
        let s := s.stopHeld t
        if (s.thr t).ops = [] then s.halt t parked else s
      else s.halt t parked
    | _ => if s.live then s.haltReply t false else s)

/-! ## Cruise (R143, R144) -/

/-- Checks the next group. -/
def State.cruise (s : State) (overwritten : Bool) : State :=
  let g := s.cruiseNext
  let m := s.badMask g (fun _ => true)
  let s := { s with cruiseNext := (g + 1) % 16384, cruiseAge := 0 }
  let s := if g + 1 = 16384 then s.count cCruiseSweeps 1 else s
  if m = 0 then s else s.cruiseFind (if overwritten then 0x09 else 0x08) g m overwritten

/-- CRUISE_CHECK. -/
def execCruiseCheck (overwritten : Bool) (s : State) : Out :=
  .next (if s.live ∧ s.core ≠ .clearing then s.cruise overwritten else s)

/-- CRUISE_FORCED_CHECK: 63 cycles have passed since the last check. -/
def execCruiseForcedCheck (overwritten : Bool) (s : State) : Out :=
  .next (if s.live ∧ s.core ≠ .clearing ∧ s.cruiseAge ≥ 63 then s.cruise overwritten else s)

/-! ## Notices -/

/-- Fraina's identifier: the core's device with core number 0x7FFE (R446). -/
def State.fraina (s : State) : CoreId := (s.ident &&& 0xFF8000) ||| 0x007FFE

/-- NOTICE_SEND: the oldest notice leaves once Atpolet is ready (R446, R447, R484). -/
def execNoticeSend (s : State) : Out :=
  .next (if ¬ s.live ∨ ¬ bit s.ready 0 then s
    else match s.notices with
      | [] => s
      | n :: q =>
        ({ s with notices := q }).emit clsATP s.fraina ([wd (n.code.toNat + 512), n.tag, 0, wd n.words.length] ++ n.words))

end Sys2Proof.Machine
end

