-- ==== Sys2Proof/Machine/Inbound.lean ====
section
/-!
DEFINITION. Inbound traffic: remote accesses to local memory (R145, R152, R155, R403, R438, R502), absence answers (R36), and
packets that are discarded (R33).
-/
namespace Sys2Proof.Machine

/-- Status codes of FRS and MOV answers (R155). -/
def rOK : Nat := 0
def rREFUSED : Nat := 1
def rPARITY : Nat := 5
def rRESETTING : Nat := 6
def rBAD_REQUEST : Nat := 7

/-- The core takes remote requests in: it is live and not in CLEARING. -/
def State.hears (s : State) : Bool := s.live && decide (s.core ≠ .clearing)

/-- Remote requests are answered RESETTING: the core is FAULTED, or a warm reset has begun (R438, R502). -/
def State.turnsAway (s : State) : Bool := decide (s.core = .faulted) || s.warm.isSome

/-- The address lies in this core's local memory (R155). -/
def State.isOwn (s : State) (a : FarAddr) : Bool := farSpace a && decide (farIndex a = s.ident.toNat % 2 ^ 15)

/-- The status of a remote access to `n` words that needs a permission, before any parity check (R152, R155). DESIGN CHOICE (log
entry 22): R155 lists RANGE, but no rule says that this core answers it; an access whose words would pass 0xFFFF lies in no
compartment, and is refused and counted as one that the compartment check refuses. -/
def State.remoteStatus (s : State) (wt : WT) (a : FarAddr) (n : Nat) (p : Perm) (formed : Bool) : Nat :=
  if s.turnsAway then rRESETTING
  else if ¬ formed ∨ ¬ s.isOwn a then rBAD_REQUEST
  else if (rangeCheck s.cfg wt (farWord a) (farWord a + n - 1) [p]).isSome then rREFUSED
  else rOK

/-- A refusal is counted (R152). -/
def State.countRefused (s : State) (st : Nat) : State := if st = rREFUSED then s.count cRemoteRefused 1 else s

/-- An FRS leaves (R155). -/
def State.frsSend (s : State) (dst : CoreId) (tag : BitVec 8) (st : Nat) (data : List Word) : State :=
  s.emit clsFRS dst (wd (tag.toNat + 256 * st) :: data)

/-- A MOV answer leaves: DATA (2) or ACK (3) (R402). -/
def State.movReply (s : State) (dst : CoreId) (wt : WT) (tag : BitVec 8) (kind st : Nat) (data : List Word) : State :=
  s.emit clsMOV dst ([wt.setWidth 16, wd (kind + 256 * tag.toNat), 0, 0, 0, 0, wd (256 * st)] ++ data)

/-- A remote read: `answer` sends the status and the words; failing words answer PARITY and are reported (R145, R152). DEDUCED (log entry
22): R155 sets no condition on the data words of an FRS; none follow a STATUS other than 0, as R402 has it for MOV. -/
def State.remoteRead (s : State) (wt : WT) (a : FarAddr) (n : Nat) (formed : Bool) (answer : State → Nat → List Word → State) : State :=
  let st := s.remoteStatus wt a n .r formed
  if st ≠ rOK then answer (s.countRefused st) st []
  else if (s.badIn (farWord a) n).isSome then (answer s rPARITY []).inboundFinds (farWord a) n
  else answer s rOK ((s.mwords (farWord a) n).map (·.d))

/-- A remote write of the words selected by `mask`. -/
def State.remoteWrite (s : State) (wt : WT) (a : FarAddr) (n : Nat) (formed : Bool) (mask : Nat → Bool) (data : List Word)
    (answer : State → Nat → State) : State :=
  let st := s.remoteStatus wt a n .w formed
  if st ≠ rOK then answer (s.countRefused st) st
  else
    answer ((List.range n).foldl (fun s i => if mask i then s.mset (farWord a + i) (data.getD i 0) else s) s) rOK

/-- The first word of the block of an address. DESIGN CHOICE (log entry 44): R154 gives no answer to a READ_LINE or WRITE_BLOCK
whose address[3:0] is not 0; here those bits are ignored. -/
def alignBlock (a : FarAddr) : FarAddr := BitVec.ofNat 52 (a.toNat / 16 * 16)

/-- FAR_READ_LINE_IN. -/
def execFarReadLineIn (src : CoreId) (wt : WT) (tag : BitVec 8) (addr : FarAddr) (s : State) : Out :=
  .next (if ¬ s.hears then s
    else s.remoteRead wt (alignBlock addr) 16 true (fun s st ws => s.frsSend src tag st ws))

/-- FAR_WRITE_BLOCK_IN. -/
def execFarWriteBlockIn (src : CoreId) (wt : WT) (tag : BitVec 8) (addr : FarAddr) (mask : Word) (data : List Word) (s : State) : Out :=
  .next (if data.length > 57 then s.discardLong
    else if ¬ s.hears then s
    else s.remoteWrite wt (alignBlock addr) 16 (data.length = 16) (bit mask) data (fun s st => s.frsSend src tag st []))

/-- FAR_READ_IN; a reserved OP is answered BAD_REQUEST (R155). -/
def execFarReadIn (src : CoreId) (wt : WT) (tag : BitVec 8) (op : BitVec 4) (addr : FarAddr) (count : Nat) (s : State) : Out :=
  .next (if ¬ s.hears then s
    else s.remoteRead wt addr count (op = 2 && (count = 1 || count = 2)) (fun s st ws => s.frsSend src tag st ws))

/-- FAR_WRITE_IN. -/
def execFarWriteIn (src : CoreId) (wt : WT) (tag : BitVec 8) (addr : FarAddr) (data : List Word) (s : State) : Out :=
  .next (if data.length > 57 then s.discardLong
    else if ¬ s.hears then s
    else s.remoteWrite wt addr data.length (data.length = 1 || data.length = 2) (fun _ => true) data
      (fun s st => s.frsSend src tag st []))

/-- MOV_WRITE. -/
def execMovWrite (src : CoreId) (wt : WT) (tag : BitVec 8) (addr : FarAddr) (data : List Word) (s : State) : Out :=
  .next (if data.length > 57 then s.discardLong
    else if ¬ s.hears then s
    else s.remoteWrite wt addr data.length (decide (1 ≤ data.length) && decide (data.length ≤ 32)) (fun _ => true) data
      (fun s st => s.movReply src wt tag 3 st []))

/-- MOV_READ; a reserved KIND is answered BAD_REQUEST (R403). -/
def execMovRead (src : CoreId) (wt : WT) (tag : BitVec 8) (kind : BitVec 4) (addr : FarAddr) (countM1 : BitVec 6) (s : State) : Out :=
  .next (if ¬ s.hears then s
    else s.remoteRead wt addr (countM1.toNat + 1) (kind = 1 && decide (countM1.toNat < 32))
      (fun s st ws => s.movReply src wt tag (if kind = 1 then 2 else 3) st ws))

/-- ABS: an answer to an FLM, a FAR or a MOV packet (R36). DESIGN CHOICE (log entry 45): the ABS of a MOV DATA or ACK that this
core sent carries the requester's tag, and R36 speaks of the lane that sent the packet; here every ABS of class MOV answers this
core's own MOV tag of its number. -/
def execAbs (src : CoreId) (cls : BitVec 4) (ident : Word) (s : State) : Out :=
  .next (if ¬ s.hears then s
    else if cls.toNat = clsFLM then (if s.flumesIn then s.flmAbsent src ident else s)
    else if cls.toNat = clsFAR then s.farAnswer ident.toNat false []
    else if cls.toNat = clsMOV then (if s.runs then s.movAnswer ident.toNat (some 0x18) true [] else s)
    else s)

/-- A packet, given by all its words, is malformed by its header (R33). -/
def malformed (ident : CoreId) (w : List Word) : Bool :=
  let h (i : Nat) : Word := w.getD i 0
  let dst := fld (h 2) 7 0 * 65536 + (h 1).toNat
  decide (fld (h 0) 3 0 ≥ 7) || decide (fld (h 0) 10 4 > 64) || decide (fld (h 0) 15 11 ≠ 0) || decide (dst ≠ ident.toNat)

/-- A packet of class ATP whose payload is no command: REPLY or NOTICE is set (R33, R447). -/
def atpForeign (w : List Word) : Bool := decide (fld (w.getD 0 0) 3 0 = clsATP) && decide (fld (w.getD 4 0) 9 8 ≠ 0)

/-- PACKET_DISCARD: counted in every core state, but for an ATP packet without a fault of its header that arrives before Atpolet
is ready, which is discarded without a count (R33, R447). -/
def execPacketDiscard (words : List Word) (s : State) : Out :=
  .next (if s.live ∧ (malformed s.ident words ∨ (atpForeign words ∧ bit s.ready 0)) then s.count cMalformed 1 else s)

end Sys2Proof.Machine
end

