-- ==== Sys2Proof/Machine/Dispatch.lean ====
section
/-!
DEFINITION. The one dispatch: each command of the opcode table, and its meaning.
-/
namespace Sys2Proof.Machine

def exec (i : Instr) (s : State) : Host.Outcome State Fault Refusal :=
  match i with
  | .add t rd ra rb => Sys2Proof.Machine.execAdd t rd ra rb s
  | .sub t rd ra rb => Sys2Proof.Machine.execSub t rd ra rb s
  | .seq t rd ra rb => Sys2Proof.Machine.execSeq t rd ra rb s
  | .sne t rd ra rb => Sys2Proof.Machine.execSne t rd ra rb s
  | .slt t rd ra rb => Sys2Proof.Machine.execSlt t rd ra rb s
  | .sltu t rd ra rb => Sys2Proof.Machine.execSltu t rd ra rb s
  | .sle t rd ra rb => Sys2Proof.Machine.execSle t rd ra rb s
  | .sleu t rd ra rb => Sys2Proof.Machine.execSleu t rd ra rb s
  | .div t rd ra rb => Sys2Proof.Machine.execDiv t rd ra rb s
  | .mov t rd rs => Sys2Proof.Machine.execMov t rd rs s
  | .and t rd rs => Sys2Proof.Machine.execAnd t rd rs s
  | .or t rd rs => Sys2Proof.Machine.execOr t rd rs s
  | .xor t rd rs => Sys2Proof.Machine.execXor t rd rs s
  | .shl t rd rs => Sys2Proof.Machine.execShl t rd rs s
  | .shr t rd rs => Sys2Proof.Machine.execShr t rd rs s
  | .sra t rd rs => Sys2Proof.Machine.execSra t rd rs s
  | .rol t rd rs => Sys2Proof.Machine.execRol t rd rs s
  | .not t rd rs => Sys2Proof.Machine.execNot t rd rs s
  | .neg t rd rs => Sys2Proof.Machine.execNeg t rd rs s
  | .mul t rd rs => Sys2Proof.Machine.execMul t rd rs s
  | .mulu t rd rs => Sys2Proof.Machine.execMulu t rd rs s
  | .divu t rd rs => Sys2Proof.Machine.execDivu t rd rs s
  | .rem t rd rs => Sys2Proof.Machine.execRem t rd rs s
  | .remu t rd rs => Sys2Proof.Machine.execRemu t rd rs s
  | .addi t rd simm => Sys2Proof.Machine.execAddi t rd simm s
  | .shli t rd count => Sys2Proof.Machine.execShli t rd count s
  | .shri t rd count => Sys2Proof.Machine.execShri t rd count s
  | .srai t rd count => Sys2Proof.Machine.execSrai t rd count s
  | .zxb t rd => Sys2Proof.Machine.execZxb t rd s
  | .sxb t rd => Sys2Proof.Machine.execSxb t rd s
  | .zxn t rd => Sys2Proof.Machine.execZxn t rd s
  | .sxn t rd => Sys2Proof.Machine.execSxn t rd s
  | .swb t rd => Sys2Proof.Machine.execSwb t rd s
  | .movImm t rd imm => Sys2Proof.Machine.execMovImm t rd imm s
  | .addImm t rd imm => Sys2Proof.Machine.execAddImm t rd imm s
  | .andImm t rd imm => Sys2Proof.Machine.execAndImm t rd imm s
  | .orImm t rd imm => Sys2Proof.Machine.execOrImm t rd imm s
  | .xorImm t rd imm => Sys2Proof.Machine.execXorImm t rd imm s
  | .seqImm t rd imm => Sys2Proof.Machine.execSeqImm t rd imm s
  | .sltImm t rd imm => Sys2Proof.Machine.execSltImm t rd imm s
  | .sltuImm t rd imm => Sys2Proof.Machine.execSltuImm t rd imm s
  | .adc t rd rs rc => Sys2Proof.Machine.execAdc t rd rs rc s
  | .sbc t rd rs rc => Sys2Proof.Machine.execSbc t rd rs rc s
  | .bz t rs off => Sys2Proof.Machine.execBz t rs off s
  | .bnz t rs off => Sys2Proof.Machine.execBnz t rs off s
  | .bzL t rs target => Sys2Proof.Machine.execBzL t rs target s
  | .bnzL t rs target => Sys2Proof.Machine.execBnzL t rs target s
  | .jmp t target => Sys2Proof.Machine.execJmp t target s
  | .jmpReg t rs => Sys2Proof.Machine.execJmpReg t rs s
  | .call t target => Sys2Proof.Machine.execCall t target s
  | .callReg t rs => Sys2Proof.Machine.execCallReg t rs s
  | .ret t => Sys2Proof.Machine.execRet t s
  | .ld t rd a => Sys2Proof.Machine.execLd t rd a s
  | .st t rs a => Sys2Proof.Machine.execSt t rs a s
  | .ldP t rd a => Sys2Proof.Machine.execLdP t rd a s
  | .stP t rs a => Sys2Proof.Machine.execStP t rs a s
  | .ldX t rd lb gi scale => Sys2Proof.Machine.execLdX t rd lb gi scale s
  | .stX t rs lb gi scale => Sys2Proof.Machine.execStX t rs lb gi scale s
  | .repN t count => Sys2Proof.Machine.execRepN t count s
  | .repI t rs => Sys2Proof.Machine.execRepI t rs s
  | .repIImm t imm => Sys2Proof.Machine.execRepIImm t imm s
  | .ldf t n rd off => Sys2Proof.Machine.execLdf t n rd off s
  | .ldfP t n rd off => Sys2Proof.Machine.execLdfP t n rd off s
  | .stf t n rs off => Sys2Proof.Machine.execStf t n rs off s
  | .stfP t n rs off => Sys2Proof.Machine.execStfP t n rs off s
  | .nop t => Sys2Proof.Machine.execNop t s
  | .settle t c => Sys2Proof.Machine.execSettle t c s
  | .sync t => Sys2Proof.Machine.execSync t s
  | .wait t v => Sys2Proof.Machine.execWait t v s
  | .gate t n => Sys2Proof.Machine.execGate t n s
  | .eret t => Sys2Proof.Machine.execEret t s
  | .dlarmA t rp => Sys2Proof.Machine.execDlarmA t rp s
  | .dlarmB t rp => Sys2Proof.Machine.execDlarmB t rp s
  | .dlarmBw t rp => Sys2Proof.Machine.execDlarmBw t rp s
  | .dldisA t => Sys2Proof.Machine.execDldisA t s
  | .dldisB t => Sys2Proof.Machine.execDldisB t s
  | .mfc t rd idx => Sys2Proof.Machine.execMfc t rd idx s
  | .mtc t idx rs => Sys2Proof.Machine.execMtc t idx rs s
  | .saveh t => Sys2Proof.Machine.execSaveh t s
  | .savel t rs => Sys2Proof.Machine.execSavel t rs s
  | .resth t => Sys2Proof.Machine.execResth t s
  | .restl t => Sys2Proof.Machine.execRestl t s
  | .tcfgI t tn shape => Sys2Proof.Machine.execTcfgI t tn shape s
  | .tcfgR t tn rs => Sys2Proof.Machine.execTcfgR t tn rs s
  | .syncT t => Sys2Proof.Machine.execSyncT t s
  | .tget t rd tn => Sys2Proof.Machine.execTget t rd tn s
  | .tld t tn ra rs bzi => Sys2Proof.Machine.execTld t tn ra rs bzi s
  | .tldU t tn ra rs => Sys2Proof.Machine.execTldU t tn ra rs s
  | .tst t tn ra rs bzi => Sys2Proof.Machine.execTst t tn ra rs bzi s
  | .tstU t tn ra rs => Sys2Proof.Machine.execTstU t tn ra rs s
  | .tzero t tn => Sys2Proof.Machine.execTzero t tn s
  | .mstat t a tn shape p => Sys2Proof.Machine.execMstat t a tn shape p s
  | .mstatC t a rs shape p kcntM1 => Sys2Proof.Machine.execMstatC t a rs shape p kcntM1 s
  | .mstream t a rs => Sys2Proof.Machine.execMstream t a rs s
  | .mtab t a tn p => Sys2Proof.Machine.execMtab t a tn p s
  | .vadd t td ta tb bc rm => Sys2Proof.Machine.execVadd t td ta tb bc rm s
  | .vsub t td ta tb bc rm => Sys2Proof.Machine.execVsub t td ta tb bc rm s
  | .vmul t td ta tb bc rm => Sys2Proof.Machine.execVmul t td ta tb bc rm s
  | .vfma t td ta tb bc rm => Sys2Proof.Machine.execVfma t td ta tb bc rm s
  | .vmax t td ta tb bc rm => Sys2Proof.Machine.execVmax t td ta tb bc rm s
  | .vmin t td ta tb bc rm => Sys2Proof.Machine.execVmin t td ta tb bc rm s
  | .vcmp t td ta tb bc pred => Sys2Proof.Machine.execVcmp t td ta tb bc pred s
  | .vsel t td ta tb rm => Sys2Proof.Machine.execVsel t td ta tb rm s
  | .vcvt t td ta rm => Sys2Proof.Machine.execVcvt t td ta rm s
  | .vexp2 t td ta rm => Sys2Proof.Machine.execVexp2 t td ta rm s
  | .vlog2 t td ta rm => Sys2Proof.Machine.execVlog2 t td ta rm s
  | .vrcp t td ta rm => Sys2Proof.Machine.execVrcp t td ta rm s
  | .vrsq t td ta rm => Sys2Proof.Machine.execVrsq t td ta rm s
  | .vrsum t td ta rm => Sys2Proof.Machine.execVrsum t td ta rm s
  | .vrmax t td ta rm => Sys2Proof.Machine.execVrmax t td ta rm s
  | .vscale t td ta tb bc rm => Sys2Proof.Machine.execVscale t td ta tb bc rm s
  | .sendW t e ln => Sys2Proof.Machine.execSendW t e ln s
  | .sendE t e => Sys2Proof.Machine.execSendE t e s
  | .sendC t rd e => Sys2Proof.Machine.execSendC t rd e s
  | .recv t rd e => Sys2Proof.Machine.execRecv t rd e s
  | .recvC t rd e => Sys2Proof.Machine.execRecvC t rd e s
  | .fdone t e => Sys2Proof.Machine.execFdone t e s
  | .fclose t e => Sys2Proof.Machine.execFclose t e s
  | .fland t e tn => Sys2Proof.Machine.execFland t e tn s
  | .finfoS t rd e => Sys2Proof.Machine.execFinfoS t rd e s
  | .finfoN t rd e => Sys2Proof.Machine.execFinfoN t rd e s
  | .finfoP t rd e => Sys2Proof.Machine.execFinfoP t rd e s
  | .skid t n rs => Sys2Proof.Machine.execSkid t n rs s
  | .skstat t rd n => Sys2Proof.Machine.execSkstat t rd n s
  | .skstop t n => Sys2Proof.Machine.execSkstop t n s
  | .clockStep t n => Sys2Proof.Machine.execClockStep t n s
  | .arrayTest t n => Sys2Proof.Machine.execArrayTest t n s
  | .seedReset t n => Sys2Proof.Machine.execSeedReset t n s
  | .freq t n => Sys2Proof.Machine.execFreq t n s
  | .clearTally t n => Sys2Proof.Machine.execClearTally t n s
  | .notifyHost t n => Sys2Proof.Machine.execNotifyHost t n s
  | .exceptionEntry t => Sys2Proof.Machine.execExceptionEntry t s
  | .parkResume t => Sys2Proof.Machine.execParkResume t s
  | .heldDispatch t => Sys2Proof.Machine.execHeldDispatch t s
  | .capacityWaitIssue t => Sys2Proof.Machine.execCapacityWaitIssue t s
  | .muldivRetire t k => Sys2Proof.Machine.execMuldivRetire t k s
  | .deadlineA t => Sys2Proof.Machine.execDeadlineA t s
  | .deadlineB t => Sys2Proof.Machine.execDeadlineB t s
  | .flumeStall e => Sys2Proof.Machine.execFlumeStall e s
  | .stillness => Sys2Proof.Machine.execStillness s
  | .haltPoint t => Sys2Proof.Machine.execHaltPoint t s
  | .farCacheHitRetire t => Sys2Proof.Machine.execFarCacheHitRetire t s
  | .readLineSend => Sys2Proof.Machine.execReadLineSend s
  | .farRequestSend => Sys2Proof.Machine.execFarRequestSend s
  | .farNoTarget t => Sys2Proof.Machine.execFarNoTarget t s
  | .mergeEntryAge k => Sys2Proof.Machine.execMergeEntryAge k s
  | .mergeEntrySend k => Sys2Proof.Machine.execMergeEntrySend k s
  | .frs tag status data => Sys2Proof.Machine.execFrs tag status data s
  | .farReadLineIn src wt tag addr => Sys2Proof.Machine.execFarReadLineIn src wt tag addr s
  | .farWriteBlockIn src wt tag addr mask data => Sys2Proof.Machine.execFarWriteBlockIn src wt tag addr mask data s
  | .farReadIn src wt tag op addr count => Sys2Proof.Machine.execFarReadIn src wt tag op addr count s
  | .farWriteIn src wt tag addr data => Sys2Proof.Machine.execFarWriteIn src wt tag addr data s
  | .movWrite src wt tag addr data => Sys2Proof.Machine.execMovWrite src wt tag addr data s
  | .movRead src wt tag kind addr countM1 => Sys2Proof.Machine.execMovRead src wt tag kind addr countM1 s
  | .movData tag status data => Sys2Proof.Machine.execMovData tag status data s
  | .movAck tag status => Sys2Proof.Machine.execMovAck tag status s
  | .flmMsg src dend sendEnd kind seq data => Sys2Proof.Machine.execFlmMsg src dend sendEnd kind seq data s
  | .flmClose src dend sendEnd seq => Sys2Proof.Machine.execFlmClose src dend sendEnd seq s
  | .fcrCredit src dend recvEnd value => Sys2Proof.Machine.execFcrCredit src dend recvEnd value s
  | .fcrClosed src dend recvEnd why value consumed => Sys2Proof.Machine.execFcrClosed src dend recvEnd why value consumed s
  | .abs src cls ident => Sys2Proof.Machine.execAbs src cls ident s
  | .atpArrival src payload => Sys2Proof.Machine.execAtpArrival src payload s
  | .packetDiscard words => Sys2Proof.Machine.execPacketDiscard words s
  | .flumePacketOut => Sys2Proof.Machine.execFlumePacketOut s
  | .ringSlotWrite e => Sys2Proof.Machine.execRingSlotWrite e s
  | .tileLandingWrite e => Sys2Proof.Machine.execTileLandingWrite e s
  | .tileOpStart x => Sys2Proof.Machine.execTileOpStart x s
  | .transferCycle x => Sys2Proof.Machine.execTransferCycle x s
  | .tldRetire x => Sys2Proof.Machine.execTldRetire x s
  | .tldURetire x => Sys2Proof.Machine.execTldURetire x s
  | .tstRetire x => Sys2Proof.Machine.execTstRetire x s
  | .tstURetire x => Sys2Proof.Machine.execTstURetire x s
  | .tzeroRetire x => Sys2Proof.Machine.execTzeroRetire x s
  | .runRead a p => Sys2Proof.Machine.execRunRead a p s
  | .fillStep a => Sys2Proof.Machine.execFillStep a s
  | .mstatRetire a p => Sys2Proof.Machine.execMstatRetire a p s
  | .tableWrite a p => Sys2Proof.Machine.execTableWrite a p s
  | .passStart a p => Sys2Proof.Machine.execPassStart a p s
  | .weightStep a p => Sys2Proof.Machine.execWeightStep a p s
  | .passVerdict a p laneDiffers expanderDiffers => Sys2Proof.Machine.execPassVerdict a p laneDiffers expanderDiffers s
  | .drainWrite a => Sys2Proof.Machine.execDrainWrite a s
  | .mstreamRetire a p => Sys2Proof.Machine.execMstreamRetire a p s
  | .rowStart => Sys2Proof.Machine.execRowStart s
  | .rowRetire => Sys2Proof.Machine.execRowRetire s
  | .descriptorTakeUp n => Sys2Proof.Machine.execDescriptorTakeUp n s
  | .descriptorComplete n => Sys2Proof.Machine.execDescriptorComplete n s
  | .completionMessage n => Sys2Proof.Machine.execCompletionMessage n s
  | .completionMessageStall n => Sys2Proof.Machine.execCompletionMessageStall n s
  | .cruiseCheck overwritten => Sys2Proof.Machine.execCruiseCheck overwritten s
  | .cruiseForcedCheck overwritten => Sys2Proof.Machine.execCruiseForcedCheck overwritten s
  | .noticeSend => Sys2Proof.Machine.execNoticeSend s
  | .clockMonitorWindow count => Sys2Proof.Machine.execClockMonitorWindow count s
  | .reverseCountWindow count => Sys2Proof.Machine.execReverseCountWindow count s
  | .clockSwitchComplete => Sys2Proof.Machine.execClockSwitchComplete s
  | .clockSelectLock => Sys2Proof.Machine.execClockSelectLock s
  | .clockSelectTimeout => Sys2Proof.Machine.execClockSelectTimeout s
  | .bringupCdrLock => Sys2Proof.Machine.execBringupCdrLock s
  | .bringupCdrTimeout => Sys2Proof.Machine.execBringupCdrTimeout s
  | .freqCountDone count => Sys2Proof.Machine.execFreqCountDone count s
  | .arraySelfTestDone a pass => Sys2Proof.Machine.execArraySelfTestDone a pass s
  | .functionReady f failed => Sys2Proof.Machine.execFunctionReady f failed s
  | .pwrOkFall => Sys2Proof.Machine.execPwrOkFall s
  | .pwrOkRise => Sys2Proof.Machine.execPwrOkRise s
  | .rstColdNAssert trimSi => Sys2Proof.Machine.execRstColdNAssert trimSi s
  | .rstColdNRelease clkfA clkfB => Sys2Proof.Machine.execRstColdNRelease clkfA clkfB s
  | .rstWarmNAssert => Sys2Proof.Machine.execRstWarmNAssert s
  | .rstWarmNRelease => Sys2Proof.Machine.execRstWarmNRelease s
  | .trimSo => Sys2Proof.Machine.execTrimSo s
  | .warmDrainComplete => Sys2Proof.Machine.execWarmDrainComplete s
  | .warmDrainTimeout => Sys2Proof.Machine.execWarmDrainTimeout s
  | .undefinedEncoding t => Sys2Proof.Machine.execUndefinedEncoding t s
  | .drainRowLeave a p => Sys2Proof.Machine.execDrainRowLeave a p s
  | .skidderPortAccess n => Sys2Proof.Machine.execSkidderPortAccess n s
  | .ident => Sys2Proof.Machine.execIdent s
  | .status => Sys2Proof.Machine.execStatus s
  | .loadBegin => Sys2Proof.Machine.execLoadBegin s
  | .loadWrite => Sys2Proof.Machine.execLoadWrite s
  | .loadEnd => Sys2Proof.Machine.execLoadEnd s
  | .threadStart => Sys2Proof.Machine.execThreadStart s
  | .threadStop => Sys2Proof.Machine.execThreadStop s
  | .threadStopDone => Sys2Proof.Machine.execThreadStopDone s
  | .threadReset => Sys2Proof.Machine.execThreadReset s
  | .threadResume => Sys2Proof.Machine.execThreadResume s
  | .txnBegin => Sys2Proof.Machine.execTxnBegin s
  | .txnSet => Sys2Proof.Machine.execTxnSet s
  | .txnCommit => Sys2Proof.Machine.execTxnCommit s
  | .txnCommitCycle => Sys2Proof.Machine.execTxnCommitCycle s
  | .txnCommitTimeout => Sys2Proof.Machine.execTxnCommitTimeout s
  | .txnRollback => Sys2Proof.Machine.execTxnRollback s
  | .flumeBind => Sys2Proof.Machine.execFlumeBind s
  | .flumeUnbind => Sys2Proof.Machine.execFlumeUnbind s
  | .dbgHalt => Sys2Proof.Machine.execDbgHalt s
  | .dbgStep => Sys2Proof.Machine.execDbgStep s
  | .dbgRead => Sys2Proof.Machine.execDbgRead s
  | .dbgWrite => Sys2Proof.Machine.execDbgWrite s
  | .dbgBreak => Sys2Proof.Machine.execDbgBreak s
  | .dbgWatch => Sys2Proof.Machine.execDbgWatch s
  | .memRead => Sys2Proof.Machine.execMemRead s
  | .memWrite => Sys2Proof.Machine.execMemWrite s
  | .tallyRead => Sys2Proof.Machine.execTallyRead s
  | .faultLogRead => Sys2Proof.Machine.execFaultLogRead s
  | .lastgaspRead => Sys2Proof.Machine.execLastgaspRead s
  | .clockSelect clkfA clkfB => Sys2Proof.Machine.execClockSelect clkfA clkfB s
  | .clockDivide => Sys2Proof.Machine.execClockDivide s
  | .freqMeasure => Sys2Proof.Machine.execFreqMeasure s
  | .trimRead => Sys2Proof.Machine.execTrimRead s
  | .trimWrite => Sys2Proof.Machine.execTrimWrite s
  | .coreResetWarm => Sys2Proof.Machine.execCoreResetWarm s
  | .coreClear => Sys2Proof.Machine.execCoreClear s
  | .unknownOpcode => Sys2Proof.Machine.execUnknownOpcode s

end Sys2Proof.Machine
end

