-- ==== Sys2Proof/WellFormed.lean ====
section
/-!
DEFINITION. The commands of their form: an inbound packet carries no more words than its class has room for. Every
other operand has a type that holds exactly the values its field admits. A packet out of form is discarded and counted (R33, R370).
-/
namespace Sys2Proof

/-- The command has the form of its row (R29, R155, R368, R402): the data of a FAR or MOV packet follow 7 words of payload and
those of an FRS follow 1, of at most 64, and an FLM message has 1 to 16 words. -/
def Instr.wf : Instr → Bool
  | .frs _ _ data => decide (data.length ≤ 63)
  | .farWriteBlockIn _ _ _ _ _ data => decide (data.length ≤ 57)
  | .farWriteIn _ _ _ _ data => decide (data.length ≤ 57)
  | .movWrite _ _ _ _ data => decide (data.length ≤ 57)
  | .movData _ _ data => decide (data.length ≤ 57)
  | .flmMsg _ _ _ _ _ data => decide (1 ≤ data.length) && decide (data.length ≤ 16)
  | _ => true

end Sys2Proof
end

