-- ==== Sys2Proof/Safety.lean ====
section
/-!
DEFINITION. What a safe run is, in the terms that statements use: the canonical form of everything the state keeps as a table of
words, the queue of commands that are packets of their form, and when a thread's instruction executes without a fault or a wait.
-/
namespace Sys2Proof.Machine

/-- Local memory, the tiles and poison are in canonical form. -/
def State.canon (s : State) : Bool := Memory.wf s.mem && Tab.wf pw0 s.tiles && Tab.wf false s.poison

/-- The block's queues are within their bounds: accesses that wait in the far queue and far request tags (R156), entries of the merging
buffer (R166), warden reports (R436), notices and the fault log (R483), Atpolet commands (R448). -/
def State.bounded (s : State) : Bool :=
  decide ((s.farOps.filter (fun o => o.wait.queued)).length ≤ 16) && s.tags.all (fun e => decide (e.1 < 16)) &&
    decide (s.merge.length ≤ 4) && decide (s.wardenQ.length ≤ 8) && decide (s.notices.length ≤ 16) &&
    decide (s.faultLog.length ≤ 32) && decide (s.atpQ.length ≤ 8)

/-- Every waiting command that is a packet has the form of its class. -/
def State.queueWf (s : State) : Bool := s.pending.all Instr.wf

/-- A step stops the machine. -/
def Stops (o : Out) : Prop := ∀ s, o ≠ .next s

/-- The thread issues at the next slot: the core runs, the thread is RUNNING, nothing is to be delivered or halted, and no
operation holds it or owes it a result (R43, R56, R61, R65, R419). -/
def State.atSlot (s : State) (t : Nat) : Bool :=
  let th := s.thr t
  s.runs && decide (th.st = .running) && th.sync.isNone && th.haltReq.isNone && th.service.isNone && !th.owes && !th.again &&
    th.waiting.isNone && !(th.precise && decide (th.ops ≠ [])) && (s.choose t).isNone

/-- The words at the thread's PC spell the instruction (R52, R101, R102; log entry 3). -/
def State.fetches (s : State) (t : Nat) (i : Instr) : Bool := s.spells t (s.thr t).pc i

/-- No register that an instruction names has a pending write (R58, R62), or the core has no interlocks (R40, R57). -/
def State.regsFree (s : State) (t : Nat) (p : Pre) : Bool :=
  let th := s.thr t
  !s.small || (p.reads ++ p.writes).all (fun r => !th.pendingRegs.contains (th.regNo r)) &&
    p.regNos.all (fun n => !th.pendingRegs.contains n)

/-- An instruction with requirements `p`, outside a repetition, executes without a fault, a wait or a spill: it may issue, its
words are fetched without a fault or a breakpoint (R104, R479), it is permitted (R12, R103), its registers and the control words
that it uses have correct parity (R73, R74), no pending write concerns it, and a long operation finds capacity (R58, R64, R467). -/
def State.clear (s : State) (t : Nat) (p : Pre) : Bool :=
  let th := s.thr t
  s.atSlot t && th.rep.isNone && (th.badUse [0x00, iTTAG]).isNone && (th.skipBreak || (s.breakAt t th.pc).isNone) &&
    (s.fetchBad th th.pc p.words).isNone && p.illegal.isNone && (!p.sup || th.sup && (th.badUse [iPSW]).isNone) &&
    (th.badUse p.ctlUses).isNone && p.reads.all (fun r => parOk (th.regP (th.regNo r))) && s.regsFree t p && !th.mustSpill p &&
    (!p.long || !th.noRoom p.writes)

/-- A thread whose instruction has ended its issue, after `n` slots. -/
def Thread.left (th : Thread) (n : Nat) : Thread :=
  { th with slotNo := th.slotNo + n, waiting := none, again := false, skipBreak := false }

/-- A thread that has jumped to an address, after `n` slots. -/
def Thread.jump (th : Thread) (pc : Word) (n : Nat) : Thread := ((th.setPc pc).left n).stepDone

/-- A thread that has passed an instruction of `n` words: a slot for each word and for each of `acc` data accesses (R50, R99). -/
def Thread.advance (th : Thread) (n : Nat) (acc : Nat := 0) : Thread := th.jump (th.pc + wd n) (n + acc)

/-- A thread whose instruction has written registers, given by number, at the end of its last slot, the `n`th, and has gone on at an
address: what a multiply or divide has made readable before that slot is written over (R56, R59). -/
def Thread.wroteTo (th : Thread) (l : List (Nat × Word)) (pc : Word) (n : Nat) : Thread := (((th.left n).writes l).setPc pc).stepDone

/-- A thread whose instruction has written registers, given by field in the current window, and has been passed. -/
def Thread.wrote (th : Thread) (l : List (Nat × Word)) (n : Nat) (acc : Nat := 0) : Thread :=
  th.wroteTo (l.map (fun e => (th.regNo e.1, e.2))) (th.pc + wd n) (n + acc)

/-- A thread that has performed one repetition of target `i`, which writes registers, given by number, in a slot of its own; the first
takes the slot of the target's fetch as well (R50, R117). -/
def Thread.repeated (th : Thread) (r : Rep) (i : Instr) (l : List (Nat × Word)) : Thread :=
  let th := { th with
    slotNo := th.slotNo + (if r.held.isNone then 2 else 1), skipBreak := th.skipBreak && r.held.isSome, waiting := none, again := false }
  let c := th.ctlW iLCNT - 1
  let th := (th.writes l).setCtl iLCNT c
  if c = 0 then ({ th with rep := none }.setPc (r.tgt + 1)).stepDone
  else
    let th := { th with rep := some { r with held := some i } }
    if r.interruptible then th.stepDone else th

/-- A scalar access of `n` words from `a` passes its checks and matches no watchpoint (R113, R480). -/
def State.accessOk (s : State) (t : Nat) (a : Word) (n : Nat) (store : Bool) : Bool :=
  let th := s.thr t
  (decide (n ≠ 2) || !bit a 0) && parOk (th.ctlP iTTAG) && (s.cmp th.wt a.toNat (if store then .w else .r)).isNone &&
    (th.skipWatch || (s.watchAt t a n store).isNone)

/-- A thread whose pending operation `o` has retired in cycle `cyc` with the given results: they are in its destinations but for a
register that a later-issued operation has written in that cycle, instructions held for them have received them, and the operation is
no longer pending (R54, R55, R59, R62). -/
def Thread.retired (th : Thread) (cyc : Nat) (o : LongOp) (vals : List Word) : Thread :=
  let th := th.retireRegs cyc o (o.dests.zip vals)
  { th with held := th.held.map (fun h => h.feed o.id (o.dests.zip vals)), ops := th.ops.filter (fun q => q.id ≠ o.id) }

/-- A thread that parks at its instruction of `n` words: in bound mode DLB is armed with the bound (R67, R131), a step of
DBG_STEP is to end in a halt (R478), and a matrix instruction keeps the descriptor that it has read (R283). -/
def Thread.parked (th : Thread) (k : ParkKind) (i : Instr) (n : Nat) (desc : Option (List Word) := none) : Thread :=
  { (th.parkOn k i).left n with
    inPlace := false, desc := desc, stepping := false, haltReq := if th.stepping then some .stepParked else th.haltReq }

/-- A thread that has handed off a long operation and gone on (R54, R75); `dist` is its settle distance, 0 where its latency is
variable (R54, R56). -/
def Thread.handed (th : Thread) (id cls : Nat) (dests : List Nat) (res : List Word) (store : Bool) (n : Nat) (dist : Nat := 0) :
    Thread :=
  let due := if dist = 0 then 0 else th.slotNo + n - 1 + dist
  { th with ops := th.ops ++ [(⟨id, cls, th.pc, dests.map th.regNo, res, store, due, th.precise⟩ : LongOp)] }.advance n

/-- The state in which a thread has handed off a long operation: nothing but the thread and the hand-off number changes. -/
def State.handed (s : State) (t cls : Nat) (dests : List Nat) (res : List Word) (store : Bool) (n : Nat) (dist : Nat := 0) : State :=
  { s.modThr t (fun th => th.handed s.nextId cls dests res store n dist) with nextId := s.nextId + 1 }

/-- A completion fault can become the thread's item of vector 2: the thread takes items, holds none of that vector, and neither
waits for the operation nor is held at it (R421, R422, R513). -/
def State.freeToFail (s : State) (t id : Nat) : Bool :=
  let th := s.thr t
  th.takesItems && th.compl.isNone && !(th.sync.any (·.held)) && !th.settlesOn id && !th.heldAt id

/-- A tile operation as it is handed off, to start at row 0 (R234, R236). -/
def TileOp.fresh (id tid : Nat) (pc : Word) (k : TileKind) (tile lt : Nat) (shape : Word) (base stride slot bzi : Nat) : TileOp where
  id := id
  tid := tid
  pc := pc
  kind := k
  tile := tile
  lt := lt
  shape := shape
  base := base
  stride := stride
  slot := slot
  bzi := bzi
  from_ := 0
  begun := false
  row := 0
  cyc := 0
  c0 := 0
  c1 := 0
  slotVal := (0, 0)
  badSlot := false
  badAt := none
  mismatch := false
  finished := false
  stopReq := false

/-- A descriptor of `n` words can be read: an even address, words that grant R, correct parity (R290, steps 1 to 3). -/
def State.descOk (s : State) (t : Nat) (a : Word) (n : Nat) : Bool :=
  !bit a 0 && (List.range n).all (fun i =>
    (s.cmp (s.thr t).wt (a + wd i).toNat .r).isNone && parOk (s.mget (a + wd i).toNat))

/-- The words of a descriptor. -/
def State.descAt (s : State) (a : Word) (n : Nat) : List Word := (List.range n).map (fun i => (s.mget (a + wd i).toNat).d)

/-- The answer of an instruction of `n` slots that waits at issue (R58, R64), with the descriptor that it has read (R283); `full` where
it has found both stations full. -/
def State.waits (s : State) (t : Nat) (i : Instr) (n : Nat) (desc : Option (List Word) := none) (full : Bool := false) : Out :=
  .next (s.modThr t (fun th => { th.left n with waiting := some i, inPlace := full, desc := desc }))

/-- The answer of a matrix instruction of `n` slots whose array is not ready after reset: its thread parks (R273). -/
def State.parksFor (s : State) (t a : Nat) (i : Instr) (n : Nat) (desc : Option (List Word) := none) : Out :=
  .next (s.modThr t (fun th => th.parked (.array a) i n desc))

/-- The state in which a loader job has been handed off; `record` where it sets the slot's stationary record (R267, R284). -/
def State.loaded (s : State) (t a slot : Nat) (kind : JobKind) (shape : Nat) (ty : ETy) (kl : Nat) (record : Bool) (tabs : Tab XTab) : State :=
  { s.handed t 4 [] [] false 2 with
    arrs := Tab.put s.arrs a { s.arr a with
      jobs := (s.arr a).jobs ++
        [(⟨s.nextId, t, (s.thr t).pc, slot, kind, shape, ty, kl, 0, 0, [], none, Counts.zero, false, false⟩ : Job)]
      recs := if record then Tab.put (s.arr a).recs slot ⟨t, shape, ty, kl⟩ else (s.arr a).recs
      tabs := tabs } }

/-- The answer of an instruction that takes a precise fault after `n` slots: the item it leaves to be delivered in the thread's next
slot, with the frame PC at the instruction (R420). -/
def State.faulted (s : State) (t : Nat) (code aux : BitVec 8) (faddr : Word) (n : Nat := 1) : Out :=
  .next ((s.modThr t (fun th => { th with skipBreak := false, slotNo := th.slotNo + n })).precise t code aux (s.thr t).pc faddr)

/-- The answer of an instruction whose whole effect is to write registers, given by field, and to be passed: every other part of
the state is unchanged. -/
def State.did (s : State) (t : Nat) (l : List (Nat × Word)) (n : Nat) : Out := .next (s.modThr t (fun th => th.wrote l n))

/-- The answer of an instruction of `n` words whose whole effect is to jump. -/
def State.jumped (s : State) (t : Nat) (pc : Word) (n : Nat) : Out := .next (s.modThr t (fun th => th.jump pc n))

/-- The reply to a command (R445, R446). -/
def AtpCmd.answer (c : AtpCmd) (ident : CoreId) (status : Nat) (results : List Word) : Packet :=
  ⟨5, c.src, ident, [wd (c.opcode + 256), c.word 1, c.word 2, wd (results.length + 256 * status)] ++ results⟩

/-- The oldest queued Atpolet command starts as one of opcode `op`: none is in execution, no reset is under way, and it passes the
checks that every opcode shares (R448, R449). -/
def State.starts (s : State) (op : Nat) (c : AtpCmd) : Bool :=
  s.live && s.warm.isNone && s.atpCur.isNone && decide (s.atpQ.head? = some c) && decide (c.opcode = op) && (s.atpCheck c).isNone

/-- The state in which the oldest queued command has left the queue. -/
def State.popped (s : State) : State := { s with atpQ := s.atpQ.tail }

/-- The state in which the oldest queued command has been answered and nothing else has changed. -/
def State.answered (s : State) (c : AtpCmd) (status : Nat) (results : List Word) : State :=
  { s.popped with gpOut := s.gpOut ++ [c.answer s.ident status results] }

end Sys2Proof.Machine
end

