-- ==== Sys2Proof/Certificates/Slice0/Obligations.lean ====
section
/-!
DEFINITION. The statements for the provers. Each docstring names the rules of the spec it rests on.
-/
open Sys2Proof Sys2Proof.Machine

/-! ## The machine as a whole -/

/-- The block's step, as the row's cut gives it: a step takes the oldest waiting command and performs it on the state with the queue's
rest. On an empty queue one delivered cycle passes, which is the model's choice (log entry 2). -/
def Obligations.StepRunsFront : Prop :=
  ∀ (s : State), (∀ c q, s.pending = c :: q → step s = exec c { s with pending := q }) ∧ (s.pending = [] → step s = .next s.idle)

/-- R25, R75, R91, R220, R354, R458, R485, R500, R501: the reset state is a core in CLEARING with no image, no thread declared, every end
UNBOUND, every local-memory and tile word zero with good parity, every register and control word at its Reset value with good parity,
READY.FALL alone set, every table in canonical form and every queue empty. The Reset values are those that R75 and R92 to R95 give. The
pins of the reset state and its empty queue are the model's choice (log entries 4 and 5). -/
def Obligations.ResetState : Prop :=
  State.reset.canon = true ∧ State.reset.bounded = true ∧ State.reset.pending = [] ∧ State.reset.core = .clearing ∧
    State.reset.ready = 0x0400 ∧
  State.reset.image = [] ∧ State.reset.decl = [] ∧ State.reset.gpOut = [] ∧ State.reset.clk.root = 2 ∧ State.reset.clk.div = 2 ∧
  (∀ a, State.reset.mget a = pw0) ∧ (∀ p i, State.reset.tget p i = pw0) ∧ (∀ p, State.reset.poisoned p = false) ∧
  (∀ i, Tab.get 0 State.reset.tally i = 0) ∧
  (∀ e < 32, (State.reset.fend e).st = .unbound ∧ endW State.reset.cfg e 3 = 0x5000 ∧ endW State.reset.cfg e 0 = 0) ∧
  (∀ n < 4, (State.reset.lane n).st = .idle ∧ laneEn State.reset.cfg n = false) ∧
  (∀ t < 64, (State.reset.thr t).st = .empty ∧ (∀ r < 40, (State.reset.thr t).regP r = pw0) ∧
    (∀ c ≤ 0x2C, let w : ParWord := if c = 0x01 then pw 0x000F else if c = 0x2A then pw 0x0018 else pw0
      (State.reset.thr t).ctlP c = w ∧ (State.reset.thr t).useP c = w) ∧ (State.reset.thr t).pcw = pw0 ∧
    (State.reset.thr t).sync = none ∧ (State.reset.thr t).ops = [] ∧ (State.reset.thr t).dla = 0 ∧ (State.reset.thr t).dlb = 0)

/-- R29, R33, R155, R368, R402: every command that the block can receive is answered with a next state, in every state; one whose condition
does not hold leaves the state unchanged, which is the model's choice (log entry 1). A packet whose payload would pass 64 words is
discarded, and counted while the core is live (R33); a message of no word or of 17 to 62 words is one that fails R370 (log entry 12). -/
def Obligations.WellFormedAnswers : Prop :=
  ∀ (c : Instr) (s : State), (∃ u, exec c s = .next u) ∧
    ∀ (src : CoreId) (tag : BitVec 8) (status : BitVec 4) (wt : WT) (addr : FarAddr) (mask seq : Word) (e f : EndNo) (kind : BitVec 2)
      (data : List Word),
      (c = .frs tag status data ∧ 63 < data.length) ∨ (c = .farWriteBlockIn src wt tag addr mask data ∧ 57 < data.length) ∨
        (c = .farWriteIn src wt tag addr data ∧ 57 < data.length) ∨ (c = .movWrite src wt tag addr data ∧ 57 < data.length) ∨
        (c = .movData tag status data ∧ 57 < data.length) ∨ (c = .flmMsg src e f kind seq data ∧ 62 < data.length) ∨
        (c = .atpArrival src data ∧ 64 < data.length) →
      exec c s = .next (if s.live then s.count 0x2B 1 else s)

/-- R135, R219: local memory and the tiles hold one word with one parity bit at each of their addresses, whatever commands arrive: every
step keeps the form in which the model lists them, in which equal contents are equal data. That form is the model's own (log entry 37). -/
def Obligations.StepKeepsCanonical : Prop :=
  ∀ (s s' : State), s.canon = true → step s = .next s' → s'.canon = true

/-- R51, R105 to R110, R430: whatever becomes of them (done, held, faulted, spilled or felled), the register-to-register instructions, the
immediate forms and the branches change no tile, no word of memory but the 8 words of the frame's L area, no register but their
destinations, no control word but LCNT (and EVPEND, whose events a felling discards), and, unless the thread is felled (R433), neither
DLA, DLB, their captured words or the bound, nor another thread. PC may change. -/
def Obligations.RegisterInstructionsFrame : Prop :=
  ∀ (s u : State) (t : Tid) (rd ra rb rc : Reg) (simm count : BitVec 4) (off : BitVec 7) (imm : Word) (i : Instr) (l : List Nat),
    (i, l) ∈ ([(.add t rd ra rb, [rd.val]), (.sub t rd ra rb, [rd.val]), (.seq t rd ra rb, [rd.val]), (.sne t rd ra rb, [rd.val]),
      (.slt t rd ra rb, [rd.val]), (.sltu t rd ra rb, [rd.val]), (.sle t rd ra rb, [rd.val]), (.sleu t rd ra rb, [rd.val]),
      (.mov t rd ra, [rd.val]), (.and t rd ra, [rd.val]), (.or t rd ra, [rd.val]), (.xor t rd ra, [rd.val]), (.shl t rd ra, [rd.val]),
      (.shr t rd ra, [rd.val]), (.sra t rd ra, [rd.val]), (.rol t rd ra, [rd.val]), (.not t rd ra, [rd.val]), (.neg t rd ra, [rd.val]),
      (.addi t rd simm, [rd.val]), (.shli t rd count, [rd.val]), (.shri t rd count, [rd.val]), (.srai t rd count, [rd.val]),
      (.zxb t rd, [rd.val]), (.sxb t rd, [rd.val]), (.zxn t rd, [rd.val]), (.sxn t rd, [rd.val]), (.swb t rd, [rd.val]),
      (.movImm t rd imm, [rd.val]), (.addImm t rd imm, [rd.val]), (.andImm t rd imm, [rd.val]), (.orImm t rd imm, [rd.val]),
      (.xorImm t rd imm, [rd.val]), (.seqImm t rd imm, [rd.val]), (.sltImm t rd imm, [rd.val]), (.sltuImm t rd imm, [rd.val]),
      (.adc t rd ra rc, [rd.val, rc.val]), (.sbc t rd ra rc, [rd.val, rc.val]), (.bz t ra off, []), (.bnz t ra off, []),
      (.bzL t ra imm, []), (.bnzL t ra imm, []), (.jmp t imm, []), (.jmpReg t ra, [])] : List (Instr × List Nat)) →
    exec i s = .next u →
    let ssp := ((s.thr t).ctlW 0x06).toNat
    u.tiles = s.tiles ∧ u.poison = s.poison ∧
    (∀ b < 65536, ¬ (ssp + 12 ≤ b ∧ b < ssp + 20) → u.mget b = s.mget b) ∧
    (∀ n, (∀ r ∈ l, n ≠ (s.thr t).regNo r) → (u.thr t).regP n = (s.thr t).regP n) ∧
    (∀ c, c ≠ 0x0B → c ≠ 0x09 ∨ (u.thr t).st ≠ .felled → (u.thr t).ctlP c = (s.thr t).ctlP c) ∧
    ((u.thr t).st ≠ .felled → (u.thr t).dlaw = (s.thr t).dlaw ∧ (u.thr t).dlbw = (s.thr t).dlbw ∧
      (u.thr t).dlaCap = (s.thr t).dlaCap ∧ (u.thr t).dlbCap = (s.thr t).dlbCap ∧ (u.thr t).dlbBound = (s.thr t).dlbBound ∧
      ∀ r, r ≠ t.val → u.thr r = s.thr r)

/-! ## Instructions on registers -/

/-- R105, R109: the compares and the sum and difference of format A write rd with the value the rule gives, and change nothing else but the
thread's PC. R106, R107: the simple instructions of format D; a shift moves by rs[3:0]. R108: the short-immediate and single-register
forms, and the forms with a second word. -/
def Obligations.RegisterResults : Prop :=
  (∀ (s : State) (t : Tid) (rd ra rb : Reg), s.clear t { reads := [ra.val, rb.val], writes := [rd.val] } = true →
     let a := (s.thr t).reg ra.val
     let b := (s.thr t).reg rb.val
     (s.fetches t (.add t rd ra rb) = true → exec (.add t rd ra rb) s = s.did t [(rd.val, wd (a.toNat + b.toNat))] 1) ∧
     (s.fetches t (.sub t rd ra rb) = true → exec (.sub t rd ra rb) s = s.did t [(rd.val, wd (a.toNat + 65536 - b.toNat))] 1) ∧
     (s.fetches t (.seq t rd ra rb) = true → exec (.seq t rd ra rb) s = s.did t [(rd.val, if a = b then 1 else 0)] 1) ∧
     (s.fetches t (.sne t rd ra rb) = true → exec (.sne t rd ra rb) s = s.did t [(rd.val, if a ≠ b then 1 else 0)] 1) ∧
     (s.fetches t (.slt t rd ra rb) = true → exec (.slt t rd ra rb) s = s.did t [(rd.val, if a.toInt < b.toInt then 1 else 0)] 1) ∧
     (s.fetches t (.sltu t rd ra rb) = true → exec (.sltu t rd ra rb) s = s.did t [(rd.val, if a.toNat < b.toNat then 1 else 0)] 1) ∧
     (s.fetches t (.sle t rd ra rb) = true → exec (.sle t rd ra rb) s = s.did t [(rd.val, if a.toInt ≤ b.toInt then 1 else 0)] 1) ∧
     (s.fetches t (.sleu t rd ra rb) = true → exec (.sleu t rd ra rb) s = s.did t [(rd.val, if a.toNat ≤ b.toNat then 1 else 0)] 1)) ∧
  (∀ (s : State) (t : Tid) (rd rs : Reg),
     let a := (s.thr t).reg rd.val
     let b := (s.thr t).reg rs.val
     let n := b.toNat % 16
     (s.clear t { reads := [rs.val], writes := [rd.val] } = true →
       (s.fetches t (.mov t rd rs) = true → exec (.mov t rd rs) s = s.did t [(rd.val, b)] 1) ∧
       (s.fetches t (.not t rd rs) = true → exec (.not t rd rs) s = s.did t [(rd.val, wd (65535 - b.toNat))] 1) ∧
       (s.fetches t (.neg t rd rs) = true → exec (.neg t rd rs) s = s.did t [(rd.val, wd (65536 - b.toNat))] 1)) ∧
     (s.clear t { reads := [rd.val, rs.val], writes := [rd.val] } = true →
       (s.fetches t (.and t rd rs) = true → exec (.and t rd rs) s = s.did t [(rd.val, a &&& b)] 1) ∧
       (s.fetches t (.or t rd rs) = true → exec (.or t rd rs) s = s.did t [(rd.val, a ||| b)] 1) ∧
       (s.fetches t (.xor t rd rs) = true → exec (.xor t rd rs) s = s.did t [(rd.val, a ^^^ b)] 1) ∧
       (s.fetches t (.shl t rd rs) = true → exec (.shl t rd rs) s = s.did t [(rd.val, wd (a.toNat * 2 ^ n))] 1) ∧
       (s.fetches t (.shr t rd rs) = true → exec (.shr t rd rs) s = s.did t [(rd.val, wd (a.toNat / 2 ^ n))] 1) ∧
       (s.fetches t (.sra t rd rs) = true → exec (.sra t rd rs) s = s.did t [(rd.val, BitVec.ofInt 16 (a.toInt / 2 ^ n))] 1) ∧
       (s.fetches t (.rol t rd rs) = true →
         exec (.rol t rd rs) s = s.did t [(rd.val, wd (a.toNat * 2 ^ n + a.toNat / 2 ^ (16 - n)))] 1))) ∧
  (∀ (s : State) (t : Tid) (rd : Reg) (simm count : BitVec 4) (imm : Word),
     let a := (s.thr t).reg rd.val
     (s.clear t { reads := [rd.val], writes := [rd.val] } = true →
       (s.fetches t (.addi t rd simm) = true →
         exec (.addi t rd simm) s = s.did t [(rd.val, BitVec.ofInt 16 (a.toInt + simm.toInt))] 1) ∧
       (s.fetches t (.shli t rd count) = true → exec (.shli t rd count) s = s.did t [(rd.val, wd (a.toNat * 2 ^ count.toNat))] 1) ∧
       (s.fetches t (.shri t rd count) = true → exec (.shri t rd count) s = s.did t [(rd.val, wd (a.toNat / 2 ^ count.toNat))] 1) ∧
       (s.fetches t (.srai t rd count) = true →
         exec (.srai t rd count) s = s.did t [(rd.val, BitVec.ofInt 16 (a.toInt / 2 ^ count.toNat))] 1) ∧
       (s.fetches t (.zxb t rd) = true → exec (.zxb t rd) s = s.did t [(rd.val, wd (a.toNat % 256))] 1) ∧
       (s.fetches t (.sxb t rd) = true → exec (.sxb t rd) s = s.did t [(rd.val, BitVec.ofInt 16 (a.setWidth 8).toInt)] 1) ∧
       (s.fetches t (.zxn t rd) = true → exec (.zxn t rd) s = s.did t [(rd.val, wd (a.toNat % 16))] 1) ∧
       (s.fetches t (.sxn t rd) = true → exec (.sxn t rd) s = s.did t [(rd.val, BitVec.ofInt 16 (a.setWidth 4).toInt)] 1) ∧
       (s.fetches t (.swb t rd) = true → exec (.swb t rd) s = s.did t [(rd.val, wd (a.toNat % 256 * 256 + a.toNat / 256))] 1)) ∧
     (s.clear t { words := 2, writes := [rd.val] } = true → s.fetches t (.movImm t rd imm) = true →
       exec (.movImm t rd imm) s = s.did t [(rd.val, imm)] 2) ∧
     (s.clear t { words := 2, reads := [rd.val], writes := [rd.val] } = true →
       (s.fetches t (.addImm t rd imm) = true → exec (.addImm t rd imm) s = s.did t [(rd.val, wd (a.toNat + imm.toNat))] 2) ∧
       (s.fetches t (.andImm t rd imm) = true → exec (.andImm t rd imm) s = s.did t [(rd.val, a &&& imm)] 2) ∧
       (s.fetches t (.orImm t rd imm) = true → exec (.orImm t rd imm) s = s.did t [(rd.val, a ||| imm)] 2) ∧
       (s.fetches t (.xorImm t rd imm) = true → exec (.xorImm t rd imm) s = s.did t [(rd.val, a ^^^ imm)] 2) ∧
       (s.fetches t (.seqImm t rd imm) = true → exec (.seqImm t rd imm) s = s.did t [(rd.val, if a = imm then 1 else 0)] 2) ∧
       (s.fetches t (.sltImm t rd imm) = true →
         exec (.sltImm t rd imm) s = s.did t [(rd.val, if a.toInt < imm.toInt then 1 else 0)] 2) ∧
       (s.fetches t (.sltuImm t rd imm) = true →
         exec (.sltuImm t rd imm) s = s.did t [(rd.val, if a.toNat < imm.toNat then 1 else 0)] 2)))

/-- R110: ADC and SBC write rd and then rc, from values read before either write; the sum rs + rc[0] does not wrap. -/
def Obligations.CarryResults : Prop :=
  ∀ (s : State) (t : Tid) (rd rs rc : Reg),
    s.clear t { words := 2, reads := [rd.val, rs.val, rc.val], writes := [rd.val, rc.val] } = true →
    let d := ((s.thr t).reg rd.val).toNat
    let r := ((s.thr t).reg rs.val).toNat
    let c := ((s.thr t).reg rc.val).toNat % 2
    (s.fetches t (.adc t rd rs rc) = true →
      exec (.adc t rd rs rc) s = s.did t [(rd.val, wd (d + r + c)), (rc.val, wd ((d + r + c) / 65536))] 2) ∧
    (s.fetches t (.sbc t rd rs rc) = true →
      exec (.sbc t rd rs rc) s = s.did t [(rd.val, wd (d + 131072 - (r + c))), (rc.val, if d < r + c then 1 else 0)] 2)

/-- R54, R56, R60, R62, R75, R107: MUL, MULU, DIV, DIVU, REM and REMU are handed off with their destinations fixed, to be readable 2 slots
after the slot of issue for a multiply and 9 for a divide, and the thread goes on with its registers unchanged. A zero divisor faults
at issue. R54 to R56, R59: MULDIV_RETIRE writes the results of the named pending multiply or divide to its destinations when its settle
distance has passed, or passes in slots in which nothing issues, and none is due before it; the operation is then no longer pending,
and instructions held for a result receive it (R62). Before, the destinations keep their old values. Log entries 29, 53 and 56 name
what here is the model's own reading or choice. -/
def Obligations.MulDivResults : Prop :=
  (∀ (s : State) (t : Tid) (rd ra rb : Reg),
     let th := s.thr t
     let x := th.reg ra.val
     let y := th.reg rb.val
     let d := th.reg rd.val
     let go (dests : List Nat) (res : List Word) (dist : Nat := 9) : Out := .next (s.handed t 1 dests res false 1 dist)
     let zero : Out := s.faulted t 0x09 0 0
     (s.clear t { reads := [ra.val, rb.val], writes := [rd.val], long := true } = true →
       s.fetches t (.div t rd ra rb) = true →
         exec (.div t rd ra rb) s = if y = 0 then zero else go [rd.val] [BitVec.ofInt 16 (x.toInt.tdiv y.toInt)]) ∧
     (s.clear t { reads := [rd.val, rb.val], writes := [rd.val], long := true } = true →
       (s.fetches t (.divu t rd rb) = true → exec (.divu t rd rb) s = (if y = 0 then zero else go [rd.val] [wd (d.toNat / y.toNat)])) ∧
       (s.fetches t (.rem t rd rb) = true →
         exec (.rem t rd rb) s = (if y = 0 then zero else go [rd.val] [BitVec.ofInt 16 (d.toInt.tmod y.toInt)])) ∧
       (s.fetches t (.remu t rd rb) = true →
         exec (.remu t rd rb) s = (if y = 0 then zero else go [rd.val] [wd (d.toNat % y.toNat)]))) ∧
     (rd.val % 2 = 0 → s.clear t { reads := [rd.val, rb.val], writes := [rd.val, rd.val + 1], long := true } = true →
       (s.fetches t (.mul t rd rb) = true → exec (.mul t rd rb) s = go [rd.val, rd.val + 1]
         [BitVec.ofInt 16 (d.toInt * y.toInt), BitVec.ofInt 16 (d.toInt * y.toInt / 65536)] 2) ∧
       (s.fetches t (.mulu t rd rb) = true →
         exec (.mulu t rd rb) s = go [rd.val, rd.val + 1] [wd (d.toNat * y.toNat), wd (d.toNat * y.toNat / 65536)] 2))) ∧
  (∀ (s : State) (t : Tid) (k : Nat) (o : LongOp), s.runs = true →
     ((s.thr t).ops.filter (fun o => o.cls = 1))[k]? = some o →
     (∀ q ∈ (s.thr t).ops, q.id = o.id → q = o) →
     let first := ∀ q ∈ (s.thr t).ops, q.cls = 1 → o.due < q.due ∨ (q.due = o.due ∧ o.id ≤ q.id)
     (first → o.due ≤ (s.thr t).slotNo ∨ s.slotsIdle t = true →
       exec (.muldivRetire t k) s = .next (s.modThr t (fun th => { th with slotNo := max th.slotNo o.due }.retired s.cycle o o.res))) ∧
     (¬ first ∨ ((s.thr t).slotNo < o.due ∧ s.slotsIdle t = false) → exec (.muldivRetire t k) s = .next s))

/-! ## Branches, calls and returns -/

/-- R109: BZ transfers control when rs = 0x0000 and BNZ when it is not, to the address of the branch + 1 + offset, or to the absolute
address of the long form; a branch not taken passes on. JMP transfers control to target16 or to the address in rs. -/
def Obligations.BranchTargets : Prop :=
  ∀ (s : State) (t : Tid) (rs : Reg) (off : BitVec 7) (target : Word),
    let v := (s.thr t).reg rs.val
    let short := BitVec.ofInt 16 ((s.thr t).pc.toInt + 1 + off.toInt)
    (s.clear t { reads := [rs.val] } = true →
      (s.fetches t (.bz t rs off) = true → exec (.bz t rs off) s = (if v = 0 then s.jumped t short 1 else s.did t [] 1)) ∧
      (s.fetches t (.bnz t rs off) = true → exec (.bnz t rs off) s = (if v = 0 then s.did t [] 1 else s.jumped t short 1)) ∧
      (s.fetches t (.jmpReg t rs) = true → exec (.jmpReg t rs) s = s.jumped t v 1)) ∧
    (s.clear t { words := 2, reads := [rs.val] } = true →
      (s.fetches t (.bzL t rs target) = true → exec (.bzL t rs target) s = (if v = 0 then s.jumped t target 2 else s.did t [] 2)) ∧
      (s.fetches t (.bnzL t rs target) = true → exec (.bnzL t rs target) s = (if v = 0 then s.did t [] 2 else s.jumped t target 2))) ∧
    (s.clear t { words := 2 } = true → s.fetches t (.jmp t target) = true → exec (.jmp t target) s = s.jumped t target 2)

/-- R77: a CALL with WP < 3 increments WP, writes the address of the following word to L7 of the new window, and goes to its target, read
before the window changes; no other register changes. R78: RET with WP > 0 goes to the address in L7 of the current window and
decrements WP; every register keeps its value. R79: CALL with WP = 3 takes WINDOW_DEPTH with AUX 1, RET with WP = 0 takes it with AUX
2; PC, WP and every register keep their values. -/
def Obligations.CallsAndReturns : Prop :=
  (∀ (s : State) (t : Tid) (rs : Reg) (target : Word), (s.thr t).wp < 3 →
     let w := (s.thr t).wp + 1
     let call (words : Nat) (pc : Word) : Out := .next (s.modThr t (fun th =>
       (th.wroteTo [(8 + 8 * w + 7, th.pc + wd words)] pc words).setCtl 0x0C (wd w)))
     (s.clear t { words := 2, uses := [0x0C], regNos := [8 + 8 * w + 7] } = true → s.fetches t (.call t target) = true →
       exec (.call t target) s = call 2 target) ∧
     (s.clear t { reads := [rs.val], uses := [0x0C], regNos := [8 + 8 * w + 7] } = true →
       s.fetches t (.callReg t rs) = true → exec (.callReg t rs) s = call 1 ((s.thr t).reg rs.val))) ∧
  (∀ (s : State) (t : Tid), 0 < (s.thr t).wp → s.clear t { reads := [15], uses := [0x0C] } = true →
     s.fetches t (.ret t) = true → exec (.ret t) s = .next (s.modThr t (fun th =>
       (th.setCtl 0x0C (wd (th.wp - 1))).jump ((th.regP (8 + 8 * th.wp + 7)).d) 1))) ∧
  (∀ (s : State) (t : Tid) (rs : Reg) (target : Word),
     ((s.thr t).wp = 3 → s.clear t { words := 2, uses := [0x0C], regNos := [47] } = true →
       s.fetches t (.call t target) = true → exec (.call t target) s = s.faulted t 0x07 1 0 2) ∧
     ((s.thr t).wp = 3 → s.clear t { reads := [rs.val], uses := [0x0C], regNos := [47] } = true →
       s.fetches t (.callReg t rs) = true → exec (.callReg t rs) s = s.faulted t 0x07 1 0) ∧
     ((s.thr t).wp = 0 → s.clear t { reads := [15], uses := [0x0C] } = true → s.fetches t (.ret t) = true →
       exec (.ret t) s = s.faulted t 0x07 2 0))

/-! ## Loads and stores of local memory -/

/-- R111, R112: LD and LD.P in every form of format M and LD of format X load from the address of the form; the base update and the loaded
words are written together, and a destination that is the base ends with the loaded value. R111, R112: ST and ST.P in every form of
format M and ST of format X store the data as read before the base update. R51, R113, R150: a pair access with an odd address takes
ALIGN, one that the compartments deny COMPARTMENT, and a load of a word with failing parity PARITY_LM in the slot of its data access,
each with the address of the access or of the word; no word of memory and no register changes. Log entries 52 and 53 name what here is
the model's own reading or choice. -/
def Obligations.LoadsAndStores : Prop :=
  (∀ (s : State) (t : Tid) (rd : Reg) (m : MAddr) (lb gi : Reg3) (scale : BitVec 2),
     let th := s.thr t
     let addr (n : Nat) : Word := match m with
       | .ind ra => th.reg ra.val
       | .postInc ra => th.reg ra.val
       | .preDec ra => th.reg ra.val - wd n
       | .off ra imm => th.reg ra.val + imm
     let base (n : Nat) : List (Nat × Word) := match m with
       | .postInc ra => [(ra.val, th.reg ra.val + wd n)]
       | .preDec ra => [(ra.val, th.reg ra.val - wd n)]
       | _ => []
     let size : Nat := match m with
       | .off _ _ => 2
       | _ => 1
     let loaded (l : List (Nat × Word)) (n : Nat) : Out :=
       .next (s.modThr t (fun th => { th.wrote l n 1 with skipWatch := false }))
     (s.clear t (loadPre 1 rd.val m) = true → s.accessOk t (addr 1) 1 false = true → parOk (s.mget (addr 1).toNat) = true →
       s.fetches t (.ld t rd m) = true → exec (.ld t rd m) s = loaded (base 1 ++ [(rd.val, (s.mget (addr 1).toNat).d)]) size) ∧
     (s.clear t (loadPre 2 rd.val m) = true → s.accessOk t (addr 2) 2 false = true → parOk (s.mget (addr 2).toNat) = true →
       parOk (s.mget ((addr 2).toNat + 1)) = true →
       s.fetches t (.ldP t rd m) = true → exec (.ldP t rd m) s = loaded (base 2 ++
         [(rd.val, (s.mget (addr 2).toNat).d), (rd.val + 1, (s.mget ((addr 2).toNat + 1)).d)]) size) ∧
     (let x := wd ((th.reg (8 + lb.val)).toNat + (th.reg gi.val).toNat * 2 ^ scale.toNat)
      s.clear t { reads := [8 + lb.val, gi.val], writes := [rd.val] } = true → s.accessOk t x 1 false = true →
       parOk (s.mget x.toNat) = true →
       s.fetches t (.ldX t rd lb gi scale) = true → exec (.ldX t rd lb gi scale) s = loaded [(rd.val, (s.mget x.toNat).d)] 1)) ∧
  (∀ (s : State) (t : Tid) (rs : Reg) (m : MAddr) (lb gi : Reg3) (scale : BitVec 2),
     let th := s.thr t
     let addr (n : Nat) : Word := match m with
       | .ind ra => th.reg ra.val
       | .postInc ra => th.reg ra.val
       | .preDec ra => th.reg ra.val - wd n
       | .off ra imm => th.reg ra.val + imm
     let base (n : Nat) : List (Nat × Word) := match m with
       | .postInc ra => [(ra.val, th.reg ra.val + wd n)]
       | .preDec ra => [(ra.val, th.reg ra.val - wd n)]
       | _ => []
     let size : Nat := match m with
       | .off _ _ => 2
       | _ => 1
     let stored (a : Word) (ws : List Word) (l : List (Nat × Word)) (n : Nat) : Out :=
       .next ((s.msetList a.toNat ws).modThr t (fun th => { th.wrote l n 1 with skipWatch := false }))
     (s.clear t (storePre 1 rs.val m) = true → s.accessOk t (addr 1) 1 true = true →
       s.fetches t (.st t rs m) = true → exec (.st t rs m) s = stored (addr 1) [th.reg rs.val] (base 1) size) ∧
     (s.clear t (storePre 2 rs.val m) = true → s.accessOk t (addr 2) 2 true = true →
       s.fetches t (.stP t rs m) = true → exec (.stP t rs m) s = stored (addr 2) [th.reg rs.val, th.reg (rs.val + 1)] (base 2) size) ∧
     (let x := wd ((th.reg (8 + lb.val)).toNat + (th.reg gi.val).toNat * 2 ^ scale.toNat)
      s.clear t { reads := [rs.val, 8 + lb.val, gi.val] } = true → s.accessOk t x 1 true = true →
       s.fetches t (.stX t rs lb gi scale) = true → exec (.stX t rs lb gi scale) s = stored x [th.reg rs.val] [] 1)) ∧
  (∀ (s : State) (t : Tid) (rd : Reg) (m : MAddr) (lb gi : Reg3) (scale : BitVec 2),
     let th := s.thr t
     let addr (n : Nat) : Word := match m with
       | .ind ra => th.reg ra.val
       | .postInc ra => th.reg ra.val
       | .preDec ra => th.reg ra.val - wd n
       | .off ra imm => th.reg ra.val + imm
     let size : Nat := match m with
       | .off _ _ => 2
       | _ => 1
     let x := wd ((th.reg (8 + lb.val)).toNat + (th.reg gi.val).toNat * 2 ^ scale.toNat)
     let fails (i : Instr) (p : Pre) (a : Word) (n words : Nat) (store : Bool) : Prop := s.clear t p = true → s.fetches t i = true →
       (n = 2 → a.toNat % 2 = 1 → exec i s = s.faulted t 0x04 0 a words) ∧
       ((n = 2 → a.toNat % 2 = 0) → parOk (th.ctlP 0x2B) = true → ∀ aux, s.cmp th.wt a.toNat (if store then .w else .r) = some aux →
         exec i s = s.faulted t 0x03 (BitVec.ofNat 8 aux) a words) ∧
       (store = false → s.accessOk t a n false = true → ∀ k < n, (∀ j < k, parOk (s.mget (a.toNat + j)) = true) →
         parOk (s.mget (a.toNat + k)) = false →
         exec i s = (s.modThr t (fun th => { th with skipWatch := false })).faulted t 0x05 0 (a + wd k) (words + 1))
     fails (.ld t rd m) (loadPre 1 rd.val m) (addr 1) 1 size false ∧ fails (.ldP t rd m) (loadPre 2 rd.val m) (addr 2) 2 size false ∧
     fails (.st t rd m) (storePre 1 rd.val m) (addr 1) 1 size true ∧ fails (.stP t rd m) (storePre 2 rd.val m) (addr 2) 2 size true ∧
     fails (.ldX t rd lb gi scale) { reads := [8 + lb.val, gi.val], writes := [rd.val] } x 1 1 false ∧
     fails (.stX t rd lb gi scale) { reads := [rd.val, 8 + lb.val, gi.val] } x 1 1 true)

/-! ## REP -/

/-- R114, R115, R117: a REP prefix takes its count from LCNT, or from its operand where LCNT = 0. A count of 0 skips the target; a count c
of at least 1 sets LCNT := c, and the target follows. An operand or count out of range takes ILLEGAL_OP with AUX 0x04 after LCNT := 0.
R114 to R117: each repetition of a permitted target performs it in a slot of its own and decrements LCNT; the target is fetched once,
before the first repetition, and the repetition that leaves LCNT = 0 sets PC to the address that follows it. Log entries 13, 53 and 57
name what here is the model's own reading or choice. -/
def Obligations.Repetitions : Prop :=
  (∀ (s : State) (t : Tid) (c : BitVec 7) (rs : Reg) (imm : Word),
     let l := ((s.thr t).ctlW 0x0B).toNat
     let start (inter : Bool) (words n : Nat) : Out :=
       if n = 0 then s.jumped t ((s.thr t).pc + 2) words
       else .next (s.modThr t (fun th =>
         { (th.setCtl 0x0B (wd n)).left words with
           rep := some { interruptible := inter, pfx := th.pc, tgt := th.pc + wd words, held := none } }))
     let bad (words : Nat) : Out := (s.modThr t (fun th => th.setCtl 0x0B 0)).faulted t 0x01 0x04 0 words
     (s.clear t { uses := [0x0B] } = true →
       s.fetches t (.repN t c) = true → exec (.repN t c) s = (if 64 < c.toNat ∨
         64 < l then bad 1 else start false 1 (if l = 0 then c.toNat else l))) ∧
     (s.clear t { reads := [rs.val], uses := [0x0B] } = true →
       s.fetches t (.repI t rs) = true → exec (.repI t rs) s = start true 1 (if l = 0 then ((s.thr t).reg rs.val).toNat else l)) ∧
     (s.clear t { words := 2, uses := [0x0B] } = true →
       s.fetches t (.repIImm t imm) = true →
         exec (.repIImm t imm) s = (if imm = 0 then bad 2 else start true 2 (if l = 0 then imm.toNat else l)))) ∧
  (∀ (s : State) (t : Tid) (r : Rep) (rd ra rb : Reg) (simm count : BitVec 4) (m : MAddr) (lb gi : Reg3) (scale : BitVec 2),
     s.canIssue t = true → (s.thr t).rep = some r →
     let th := s.thr t
     let a := th.reg ra.val
     let b := th.reg rb.val
     let d := th.reg rd.val
     let n := b.toNat % 16
     let reads (l : List Nat) (w : List Nat) : Prop := (th.badUse (0x0B :: if (l ++
       w).any (fun r => 8 ≤ r) then [0x0C] else [])).isNone = true ∧
       (∀ q ∈ l, parOk (th.regP (th.regNo q)) = true) ∧ s.regsFree t { reads := l, writes := w } = true ∧
       th.mustSpill { writes := w } = false
     let fetched (i : Instr) : Prop := r.held = some i ∨ (r.held = none ∧ s.spells t r.tgt i = true ∧
       (th.badUse [0x00, 0x2B]).isNone = true ∧ (th.skipBreak || (s.breakAt t r.tgt).isNone) = true ∧
       (s.fetchBad th r.tgt 1).isNone = true)
     let number (l : List (Nat × Word)) : List (Nat × Word) := l.map (fun e => (th.regNo e.1, e.2))
     let alu (i : Instr) (l : List Nat) (w : Word) : Prop :=
       fetched i → reads l [rd.val] → exec i s = .next (s.modThr t (fun th => th.repeated r i (number [(rd.val, w)])))
     let addr (k : Nat) : Word := match m with
       | .postInc ra => th.reg ra.val
       | .preDec ra => th.reg ra.val - wd k
       | .ind ra => th.reg ra.val
       | .off ra imm => th.reg ra.val + imm
     let base (k : Nat) : List (Nat × Word) := match m with
       | .postInc ra => [(ra.val, th.reg ra.val + wd k)]
       | .preDec ra => [(ra.val, th.reg ra.val - wd k)]
       | _ => []
     let one : Prop := match m with
       | .off _ _ => False
       | _ => True
     let does (i : Instr) (s : State) (l : List (Nat × Word)) : Out :=
       .next (s.modThr t (fun th => { th.repeated r i (number l) with skipWatch := false }))
     let mem (k i : Nat) : Word := (s.mget ((addr k).toNat + i)).d
     let x := wd ((th.reg (8 + lb.val)).toNat + (th.reg gi.val).toNat * 2 ^ scale.toNat)
     alu (.add t rd ra rb) [ra.val, rb.val] (a + b) ∧ alu (.sub t rd ra rb) [ra.val, rb.val] (a - b) ∧
     alu (.seq t rd ra rb) [ra.val, rb.val] (if a = b then 1 else 0) ∧
       alu (.sne t rd ra rb) [ra.val, rb.val] (if a ≠ b then 1 else 0) ∧
     alu (.slt t rd ra rb) [ra.val, rb.val] (if a.toInt < b.toInt then 1 else 0) ∧
     alu (.sltu t rd ra rb) [ra.val, rb.val] (if a.toNat < b.toNat then 1 else 0) ∧
     alu (.sle t rd ra rb) [ra.val, rb.val] (if a.toInt ≤ b.toInt then 1 else 0) ∧
     alu (.sleu t rd ra rb) [ra.val, rb.val] (if a.toNat ≤ b.toNat then 1 else 0) ∧
     alu (.mov t rd rb) [rb.val] b ∧ alu (.not t rd rb) [rb.val] (wd (65535 - b.toNat)) ∧
       alu (.neg t rd rb) [rb.val] (wd (65536 - b.toNat)) ∧
     alu (.and t rd rb) [rd.val, rb.val] (d &&& b) ∧ alu (.or t rd rb) [rd.val, rb.val] (d ||| b) ∧
     alu (.xor t rd rb) [rd.val, rb.val] (d ^^^ b) ∧ alu (.shl t rd rb) [rd.val, rb.val] (wd (d.toNat * 2 ^ n)) ∧
     alu (.shr t rd rb) [rd.val, rb.val] (wd (d.toNat / 2 ^ n)) ∧
       alu (.sra t rd rb) [rd.val, rb.val] (BitVec.ofInt 16 (d.toInt / 2 ^ n)) ∧
     alu (.rol t rd rb) [rd.val, rb.val] (wd (d.toNat * 2 ^ n + d.toNat / 2 ^ (16 - n))) ∧
     alu (.addi t rd simm) [rd.val] (BitVec.ofInt 16 (d.toInt + simm.toInt)) ∧
     alu (.shli t rd count) [rd.val] (wd (d.toNat * 2 ^ count.toNat)) ∧
       alu (.shri t rd count) [rd.val] (wd (d.toNat / 2 ^ count.toNat)) ∧
     alu (.srai t rd count) [rd.val] (BitVec.ofInt 16 (d.toInt / 2 ^ count.toNat)) ∧
     alu (.zxb t rd) [rd.val] (wd (d.toNat % 256)) ∧ alu (.sxb t rd) [rd.val] (BitVec.ofInt 16 (d.setWidth 8).toInt) ∧
     alu (.zxn t rd) [rd.val] (wd (d.toNat % 16)) ∧ alu (.sxn t rd) [rd.val] (BitVec.ofInt 16 (d.setWidth 4).toInt) ∧
     alu (.swb t rd) [rd.val] (wd (d.toNat % 256 * 256 + d.toNat / 256)) ∧
     (one → fetched (.ld t rd m) → reads (loadPre 1 rd.val m).reads (loadPre 1 rd.val m).writes →
       s.accessOk t (addr 1) 1 false = true →
       parOk (s.mget (addr 1).toNat) = true → exec (.ld t rd m) s = does (.ld t rd m) s (base 1 ++ [(rd.val, mem 1 0)])) ∧
     (one → rd.val % 2 = 0 → fetched (.ldP t rd m) → reads (loadPre 2 rd.val m).reads (loadPre 2 rd.val m).writes →
       s.accessOk t (addr 2) 2 false = true → parOk (s.mget (addr 2).toNat) = true → parOk (s.mget ((addr 2).toNat + 1)) = true →
       exec (.ldP t rd m) s = does (.ldP t rd m) s (base 2 ++ [(rd.val, mem 2 0), (rd.val + 1, mem 2 1)])) ∧
     (one → fetched (.st t rd m) → reads (storePre 1 rd.val m).reads (storePre 1 rd.val m).writes →
       s.accessOk t (addr 1) 1 true = true →
       exec (.st t rd m) s = does (.st t rd m) (s.msetList (addr 1).toNat [d]) (base 1)) ∧
     (one → rd.val % 2 = 0 → fetched (.stP t rd m) → reads (storePre 2 rd.val m).reads (storePre 2 rd.val m).writes →
       s.accessOk t (addr 2) 2 true = true →
       exec (.stP t rd m) s = does (.stP t rd m) (s.msetList (addr 2).toNat [d, th.reg (rd.val + 1)]) (base 2)) ∧
     (fetched (.ldX t rd lb gi scale) → reads [8 + lb.val, gi.val] [rd.val] → s.accessOk t x 1 false = true →
       parOk (s.mget x.toNat) = true →
       exec (.ldX t rd lb gi scale) s = does (.ldX t rd lb gi scale) s [(rd.val, (s.mget x.toNat).d)]) ∧
     (fetched (.stX t rd lb gi scale) → reads [rd.val, 8 + lb.val, gi.val] [] → s.accessOk t x 1 true = true →
       exec (.stX t rd lb gi scale) s = does (.stX t rd lb gi scale) (s.msetList x.toNat [d]) []))

/-- R430: the first instruction of a handler that writes an L register while LFILL = 0 (a simple write, a load or a base update, a long
operation with an L destination, RESTH) first spills L0 to L7 of window WP to SSP + 12 to SSP + 19 in 4 slots and sets LFILL: what
follows is its effect on the state so left. Where a word of the area may not be written the thread is felled with reason 0x03 instead,
and no word of memory and no register of it changes. Log entries 29 and 52 name what here is the model's own reading or choice. -/
def Obligations.FirstLocalWriteSpills : Prop :=
  ∀ (s : State) (t : Tid) (i : Instr) (l : List Nat) (rd ra rb rc : Reg) (simm count : BitVec 4) (imm off : Word) (m : MAddr)
    (lb gi : Reg3) (scale : BitVec 2) (n : Xb) (idx : BitVec 6) (tn : LTile),
    (i, l) ∈ ([(.add t rd ra rb, [rd.val]), (.sub t rd ra rb, [rd.val]), (.seq t rd ra rb, [rd.val]), (.sne t rd ra rb, [rd.val]),
      (.slt t rd ra rb, [rd.val]), (.sltu t rd ra rb, [rd.val]), (.sle t rd ra rb, [rd.val]), (.sleu t rd ra rb, [rd.val]),
      (.mov t rd ra, [rd.val]), (.and t rd ra, [rd.val]), (.or t rd ra, [rd.val]), (.xor t rd ra, [rd.val]), (.shl t rd ra, [rd.val]),
      (.shr t rd ra, [rd.val]), (.sra t rd ra, [rd.val]), (.rol t rd ra, [rd.val]), (.not t rd ra, [rd.val]), (.neg t rd ra, [rd.val]),
      (.addi t rd simm, [rd.val]), (.shli t rd count, [rd.val]), (.shri t rd count, [rd.val]), (.srai t rd count, [rd.val]),
      (.zxb t rd, [rd.val]), (.sxb t rd, [rd.val]), (.zxn t rd, [rd.val]), (.sxn t rd, [rd.val]), (.swb t rd, [rd.val]),
      (.movImm t rd imm, [rd.val]), (.addImm t rd imm, [rd.val]), (.andImm t rd imm, [rd.val]), (.orImm t rd imm, [rd.val]),
      (.xorImm t rd imm, [rd.val]), (.seqImm t rd imm, [rd.val]), (.sltImm t rd imm, [rd.val]), (.sltuImm t rd imm, [rd.val]),
      (.adc t rd ra rc, [rd.val, rc.val]), (.sbc t rd ra rc, [rd.val, rc.val]),
      (.ld t rd m, (loadPre 1 rd.val m).writes), (.ldP t rd m, (loadPre 2 rd.val m).writes), (.ldX t rd lb gi scale, [rd.val]),
      (.st t rd m, (storePre 1 rd.val m).writes), (.stP t rd m, (storePre 2 rd.val m).writes),
      (.div t rd ra rb, [rd.val]), (.divu t rd ra, [rd.val]), (.rem t rd ra, [rd.val]), (.remu t rd ra, [rd.val]),
      (.mul t rd ra, [rd.val, rd.val + 1]), (.mulu t rd ra, [rd.val, rd.val + 1]),
      (.ldf t n rd off, [rd.val]), (.ldfP t n rd off, [rd.val, rd.val + 1]),
      (.mfc t rd idx, [rd.val]), (.tget t rd tn, [rd.val, rd.val + 1]), (.resth t, [8])] : List (Instr × List Nat)) →
    (∃ r ∈ l, 8 ≤ r) → (s.thr t).lfill = false → (s.thr t).rep = none → (s.thr t).ops = [] → (s.thr t).held = [] →
    parOk ((s.thr t).ctlP 0x06) = true → parOk ((s.thr t).ctlP 0x0C) = true →
      (∀ k < 8, parOk ((s.thr t).regP ((s.thr t).regNo (8 + k))) = true) →
    let ssp := ((s.thr t).ctlW 0x06).toNat
    let pc := (s.thr t).pc
    let outside (a : Nat) : Prop := ∀ k < 8, a % 65536 ≠ (ssp + 12 + k) % 65536
    outside pc.toNat → outside (pc + 1).toNat →
    (i = .resth t → outside ((s.thr t).ctlW 0x0E).toNat ∧ outside (((s.thr t).ctlW 0x0E).toNat + 1)) →
    let spilled := (s.msetList (ssp + 12) ((List.range 8).map (fun k => (s.thr t).reg (8 + k)))).modThr t (fun th =>
      { th with slotNo := th.slotNo + 4, lfill := true })
    ((s.firstBad (s.thr t).wt (ssp + 12) 16 .w).isNone = true → ∀ u, exec i spilled = .next u → (u.thr t).pc ≠ pc →
      exec i s = .next u) ∧
    ((s.firstBad (s.thr t).wt (ssp + 12) 16 .w).isSome = true →
      ∀ u, exec i (s.modThr t (fun th => { th with lfill := true })) = .next u → (u.thr t).pc ≠ pc →
      ∃ v, exec i s = .next v ∧ (v.thr t).st = .felled ∧ Tab.get 0 (v.thr t).lastgasp 0 = 0x03FF ∧ v.mem = s.mem ∧
        (v.thr t).regs = (s.thr t).regs)

/-! ## The far path -/

/-- R122, R123, R124, R153, R158, R159, R160: LDF and LDF.P with permission, an even offset for a pair and room in the far queue are handed
off. A load with no target waits for its FAR_ERROR, one with NC = 1 or of a world without lines goes to the fabric, one whose line is
present hits, and one whose line is absent misses, or waits for the fill of its block unless a store of its thread to its words, issued
before it, is still to be sent (R171). R122, R123, R124, R166, R169, R171: STF and STF.P with permission, an even offset for a pair and
room in the far queue are handed off. With NC = 1 the store waits to be sent; with NC = 0 it merges into the entry of its block, unless
an access to the block that came between waits to be sent, or opens a free one. R123, R113, R96: a far access without the RD or WR
permission takes COMPARTMENT with AUX 0x10 + n, and a permitted pair access with an odd offset takes ALIGN, whatever room there is;
nothing is sent and no register changes. Log entries 19 and 42 name what here is the model's own reading or choice. -/
def Obligations.FarHandOffs : Prop :=
  (∀ (s : State) (t : Tid) (n : Xb) (rd : Reg) (off : Word),
     let th := s.thr t
     let x := 0x14 + 3 * n.val
     let a := th.farAddr n.val off
     let idx := lineIdx s.cfg th.wt (farBlock a)
     let load (i : Instr) (fields : List Nat) : Prop :=
       s.clear t { words := 2, writes := fields, uses := [x, x + 1, x + 2], long := true } = true → s.fetches t i = true →
       bit (th.useW (x + 2)) 4 = true → s.farFull = false →
       let o (w : FarWait) : FarOp := ⟨s.nextId, t, th.pc, th.wt, a, off, false, [], fields.map th.regNo,
         s.overlay (farBlock a) th.wt, w⟩
       let went (w : FarWait) : Out := .next { s.handed t 2 fields [] false 2 with farOps := s.farOps ++ [o w] }
       (farDst a = none → exec i s = went .noTarget) ∧
       (farDst a ≠ none → bit (th.useW (x + 2)) 6 = true ∨ worldCached s.cfg th.wt = false → exec i s = went .uncached) ∧
       (farDst a ≠ none → bit (th.useW (x + 2)) 6 = false → worldCached s.cfg th.wt = true → s.evict = none →
         let absent : FarWait := if s.filling (farBlock a) th.wt && !s.storeFirst (o .sent) then .onFill else .miss
         (Tab.find s.lines idx = none → exec i s = went absent) ∧
         (∀ l, Tab.find s.lines idx = some l → l.bad (o .sent) = false →
           exec i s = went (if l.holds (farBlock a) th.wt then .hit (l.vals (o .sent)) else absent)))
     load (.ldf t n rd off) [rd.val] ∧
     (rd.val % 2 = 0 → off.toNat % 2 = 0 → load (.ldfP t n rd off) [rd.val, rd.val + 1])) ∧
  (∀ (s : State) (t : Tid) (n : Xb) (rs : Reg) (off : Word),
     let th := s.thr t
     let x := 0x14 + 3 * n.val
     let a := th.farAddr n.val off
     let store (i : Instr) (fields : List Nat) : Prop :=
       s.clear t { words := 2, reads := fields, uses := [x, x + 1, x + 2], long := true } = true → s.fetches t i = true →
       bit (th.useW (x + 2)) 5 = true → s.farFull = false →
       let o (w : FarWait) : FarOp := ⟨s.nextId, t, th.pc, th.wt, a, off, true, fields.map th.reg, [], [], w⟩
       let base := s.handed t 2 [] [] true 2
       let joined := joinFirst (o .sent) (fun m => !s.parted (o .sent) m) s.merge
       (farDst a = none → exec i s = .next { base with farOps := s.farOps ++ [o .noTarget] }) ∧
       (farDst a ≠ none → bit (th.useW (x + 2)) 6 = true → exec i s = .next { base with farOps := s.farOps ++ [o .uncached] }) ∧
       (farDst a ≠ none → bit (th.useW (x + 2)) 6 = false →
         ∃ u, exec i s = .next u ∧ u.threads = base.threads ∧ u.mem = s.mem ∧ u.gpOut = s.gpOut ∧
           (∀ ms, joined = some ms → u.merge = ms ∧ u.farOps = s.farOps) ∧
           (joined = none → s.merge.length < 4 →
             u.merge = s.merge ++ [MergeEntry.opened (o .sent)] ∧ u.farOps = s.farOps) ∧
           (joined = none → 4 ≤ s.merge.length → u.merge = s.merge ∧ u.farOps = s.farOps ++ [o .merge]))
     store (.stf t n rs off) [rs.val] ∧
     (rs.val % 2 = 0 → off.toNat % 2 = 0 → store (.stfP t n rs off) [rs.val, rs.val + 1])) ∧
  (∀ (s : State) (t : Tid) (n : Xb) (r : Reg) (off : Word),
     let w2 := (s.thr t).useW (0x14 + 3 * n.val + 2)
     let uses := [0x14 + 3 * n.val, 0x14 + 3 * n.val + 1, 0x14 + 3 * n.val + 2]
     let denied : Out := s.faulted t 0x03 (BitVec.ofNat 8 (0x10 + n.val)) off 2
     (s.clear t { words := 2, writes := [r.val], uses := uses } = true →
       bit w2 4 = false → s.fetches t (.ldf t n r off) = true → exec (.ldf t n r off) s = denied) ∧
     (s.clear t { words := 2, reads := [r.val], uses := uses } = true →
       bit w2 5 = false → s.fetches t (.stf t n r off) = true → exec (.stf t n r off) s = denied) ∧
     (r.val % 2 = 0 → s.clear t { words := 2, writes := [r.val, r.val + 1], uses := uses } = true →
       (bit w2 4 = false → s.fetches t (.ldfP t n r off) = true → exec (.ldfP t n r off) s = denied) ∧
       (bit w2 4 = true → off.toNat % 2 = 1 → s.fetches t (.ldfP t n r off) = true →
         exec (.ldfP t n r off) s = s.faulted t 0x04 0 off 2)) ∧
     (r.val % 2 = 0 → s.clear t { words := 2, reads := [r.val, r.val + 1], uses := uses } = true →
       (bit w2 5 = false → s.fetches t (.stfP t n r off) = true → exec (.stfP t n r off) s = denied) ∧
       (bit w2 5 = true → off.toNat % 2 = 1 → s.fetches t (.stfP t n r off) = true →
         exec (.stfP t n r off) s = s.faulted t 0x04 0 off 2)))

/-- R153, R154, R156, R160, R167, R169: READ_LINE_SEND sends READ_LINE for the oldest miss, FAR_REQUEST_SEND sends READ or WRITE for the
first uncached access that nothing earlier holds back, and MERGE_ENTRY_SEND sends a due entry as WRITE_BLOCK, each with a free tag,
which the request then holds: the lowest, which is the model's choice (log entry 43). Log entries 19, 20 and 43 name what here is the
model's own reading or choice. -/
def Obligations.FarRequestsLeave : Prop :=
  ∀ (s : State) (tag : Nat) (d : CoreId), s.runs = true → s.freeTag = some tag →
    let pkt (wt : WT) (op : Nat) (a : FarAddr) (last : Word) (data : List Word) : Packet :=
      ⟨2, d, s.ident, [wt.setWidth 16, wd (op + 256 * tag), wd a.toNat, wd (a.toNat / 2 ^ 16), wd (a.toNat / 2 ^ 32),
        wd (a.toNat / 2 ^ 48), last] ++ data⟩
    (∀ o, s.missBusy = false → s.farOps.find? (fun o => o.wait = .miss) = some o → s.farBehind o = false →
      farDst (blockAddr o.block) = some d →
      ∃ u more st, exec .readLineSend s = .next u ∧ u.gpOut = s.gpOut ++ pkt o.wt 0 (blockAddr o.block) 0 [] :: more ∧
        Tab.find u.tags tag = some (.fill o.block o.wt false st) ∧
        ((Tab.find s.lines (lineIdx s.cfg o.wt (o.block + 1))).isSome ∨ (o.block + 1) / 4096 ≠ o.block / 4096 →
          more = [] ∧ u.ahead = none)) ∧
    (∀ o, s.farOps.find? (fun o => decide (o.wait = .uncached) && !s.farBehind o) = some o → farDst o.addr = some d →
      ∃ u, exec .farRequestSend s = .next u ∧
        u.gpOut = s.gpOut ++ [pkt o.wt (if o.store then 3 else 2) o.addr (wd o.size) o.data] ∧
        Tab.find u.tags tag = some (.op o.id) ∧
        u.farOps = s.farOps.map (fun q => if q.id = o.id then { q with wait := .sent } else q)) ∧
    (∀ i m, s.merge[i]? = some m → s.mergeDue i m = true → s.mergeHeld m = false → (∀ w ∈ m.words, parOk w.2 = true) →
      farDst (blockAddr m.block) = some d →
      let rest := s.merge.eraseIdx i
      ∃ u, exec (.mergeEntrySend i) s = .next u ∧ Tab.find u.tags tag = some (.entry m) ∧
        u.gpOut = s.gpOut ++ [pkt m.wt 1 (blockAddr m.block) (wd m.mask)
          ((List.range 16).map (fun k => ((Tab.find m.words k).map (·.d)).getD 0))] ∧
        (s.farOps.filter (fun o => o.wait = .merge) = [] → u.merge = rest ∧ u.farOps = s.farOps) ∧
        ∀ o, s.farOps.filter (fun o => o.wait = .merge) = [o] → s.merge.length ≤ 4 →
          u.merge = (joinFirst o (fun m => !s.parted o m) rest).getD (rest ++ [MergeEntry.opened o]) ∧
          u.farOps = s.farOps.filter (fun q => q.id ≠ o.id))

/-- R36, R155, R164, R168, R169: an FRS with status OK retires the access that holds its tag, with the data of a load in its destinations;
a nonzero status, or an ABS of its packet, completes it with FAR_ERROR, the issuing PC and the offset, and its destinations unchanged.
R160, R163: a fill with status OK that finds its index invalid is installed with the words that stores have written since the request
left. Log entries 19 and 42 name what here is the model's own reading or choice. -/
def Obligations.FarAnswers : Prop :=
  (∀ (s : State) (tag : BitVec 8) (status : BitVec 4) (data : List Word) (o : FarOp) (op : LongOp), s.runs = true → data.length ≤ 63 →
     s.ahead = none → Tab.find s.tags tag.toNat = some (.op o.id) → s.farOps.find? (fun q => q.id = o.id) = some o →
     (s.thr o.tid).ops.find? (fun q => q.id = o.id) = some op →
     (status = 0 → data.length = (if o.store then 0 else o.size) →
       ∃ u, exec (.frs tag status data) s = .next u ∧ u.thr o.tid = (s.thr o.tid).retired s.cycle op data ∧
         Tab.find u.tags tag.toNat = none ∧ (∀ q ∈ u.farOps, q.id ≠ o.id)) ∧
     (s.freeToFail o.tid o.id = true →
       let fails (r : Out) : Prop := ∃ u, r = .next u ∧ (u.thr o.tid).compl = some (item 0x30 0 o.pc o.off) ∧
         (u.thr o.tid).regs = (s.thr o.tid).regs ∧ (u.thr o.tid).ops = (s.thr o.tid).ops.filter (fun q => q.id ≠ o.id) ∧
         Tab.find u.tags tag.toNat = none
       (status ≠ 0 → fails (exec (.frs tag status data) s)) ∧ ∀ src, fails (exec (.abs src 2 (tag.setWidth 16)) s))) ∧
  (∀ (s : State) (tag : BitVec 8) (data : List Word) (b : Nat) (wt : WT) (st : Tab Word), s.runs = true → data.length = 16 →
     Tab.find s.tags tag.toNat = some (.fill b wt false st) → Tab.find s.lines (lineIdx s.cfg wt b) = none →
     ∃ u l, exec (.frs tag 0 data) s = .next u ∧ Tab.find u.lines (lineIdx s.cfg wt b) = some l ∧ l.holds b wt = true ∧
       ∀ k < 16, l.words.getD k pw0 = pw ((Tab.find st k).getD (data.getD k 0)))

/-- R153, R159, R167: FAR_CACHE_HIT_RETIRE retires the thread's oldest hit with its words, FAR_NO_TARGET completes an access without a
target with FAR_ERROR, and MERGE_ENTRY_AGE makes an entry of 32 cycles due. Log entry 19 names what here is the model's own reading or
choice. -/
def Obligations.FarEventsComplete : Prop :=
  ∀ (s : State) (t : Tid), s.runs = true →
    (∀ pre o post op v, (s.thr t).ops.find? (fun q => q.id = o.id) = some op → s.farOps = pre ++ o :: post →
      (∀ q ∈ pre, q.tid = t.val → ∀ w, q.wait ≠ .hit w) → o.tid = t.val → o.wait = .hit v →
      ∃ u, exec (.farCacheHitRetire t) s = .next u ∧ u.thr t = (s.thr t).retired s.cycle op v ∧ ∀ q ∈ u.farOps, q.id ≠ o.id) ∧
    (∀ o op, (s.thr t).ops.find? (fun q => q.id = o.id) = some op →
      s.farOps.find? (fun o => decide (o.tid = t.val) && decide (o.wait = .noTarget)) = some o → s.freeToFail t o.id = true →
      ∃ u, exec (.farNoTarget t) s = .next u ∧ (u.thr t).compl = some (item 0x30 0 o.pc o.off) ∧ u.gpOut = s.gpOut ∧
        (u.thr t).regs = (s.thr t).regs ∧ (u.thr t).ops = (s.thr t).ops.filter (fun q => q.id ≠ o.id)) ∧
    (∀ i m, s.merge[i]? = some m → 32 ≤ m.age →
      exec (.mergeEntryAge i) s = .next { s with merge := s.merge.modify i (fun m => { m with due := true }) })

/-! ## The core's own instructions -/

/-- R125, R126, R127: NOP and SYNC cost their slot, and SYNC makes RWS writes effective; SETTLE c with nothing of class c outstanding, and
WAIT v with EVPEND bit v set, go on, and both park the thread otherwise; an entry of the merging buffer that holds the thread's stores
becomes due at SETTLE 0 or 2. A class above 6 takes ILLEGAL_OP with AUX 0x05 (R103). R103, R104, R114: an undefined encoding takes a
precise ILLEGAL_OP fault with AUX 0x01 and has no effect, but that at a REP prefix LCNT is 0 before; one that its second word makes
undefined takes it after that word's fetch, as do MSTAT and MSTAT.C with shape 7 and the row-unit forms with RM = 0b11 or a VSCALE by
element. R72, R103, R104: an instruction that names an odd register as the first of a pair takes ILLEGAL_OP with AUX 0x02 at its first
word, and a FINFO, which names it in its second, at that word. Log entry 13 names what here is the model's own reading or choice. -/
def Obligations.WaitsAndUndefined : Prop :=
  (∀ (s : State) (t : Tid) (c : BitVec 4) (v : Vec), s.clear t {} = true →
     let ids := ((s.thr t).ops.filter (fun o => decide (c = 0) || decide (o.cls = c.toNat))).map (·.id)
     let s' : State := { s with merge :=
       if c = 0 ∨ c = 2 then s.merge.map (fun m => if m.threads.contains t.val then { m with due := true } else m) else s.merge }
     (s.fetches t (.nop t) = true → exec (.nop t) s = s.did t [] 1) ∧
     (s.fetches t (.sync t) = true → exec (.sync t) s = .next (s.modThr t (fun th => th.syncRws.advance 1))) ∧
     (c.toNat ≤ 6 → ids = [] → s.fetches t (.settle t c) = true → exec (.settle t c) s = s'.did t [] 1) ∧
     (c.toNat ≤ 6 → ids ≠ [] → s.fetches t (.settle t c) = true →
       exec (.settle t c) s = .next (s'.modThr t (fun th => th.parked (.settle ids) (.settle t c) 1))) ∧
     (6 < c.toNat → s.fetches t (.settle t c) = true → exec (.settle t c) s = s.faulted t 0x01 0x05 0) ∧
     (parOk ((s.thr t).ctlP 0x09) = true → bit ((s.thr t).ctlW 0x09) v.val = true → s.fetches t (.wait t v) = true →
       exec (.wait t v) s = s.did t [] 1) ∧
     (parOk ((s.thr t).ctlP 0x09) = true → bit ((s.thr t).ctlW 0x09) v.val = false →
       s.fetches t (.wait t v) = true → exec (.wait t v) s = .next (s.modThr t (fun th => th.parked (.wait v.val) (.wait t v) 1)))) ∧
  (∀ (s : State) (t : Tid) (a : ArrNo) (tn td ta tb : LTile) (rs : Reg) (p bc : BitVec 2) (k : BitVec 7),
     let w := (s.mget (s.thr t).pc.toNat).d
     let undefined (n : Nat) : Prop := s.clear t { words := n } = true → s.fetches t (.undefinedEncoding t) = true →
       exec (.undefinedEncoding t) s = (if repWord w then s.modThr t (fun th => th.setCtl 0x0B 0) else s).faulted t 0x01 0x01 0 n
     (bySecond t w = false → undefined 1) ∧ (bySecond t w = true → undefined 2) ∧
     ∀ i ∈ ([.mstat t a tn 7 p, .mstatC t a rs 7 p k, .vadd t td ta tb bc 3, .vsub t td ta tb bc 3, .vmul t td ta tb bc 3,
       .vfma t td ta tb bc 3, .vmax t td ta tb bc 3, .vmin t td ta tb bc 3, .vsel t td ta tb 3, .vcvt t td ta 3, .vexp2 t td ta 3,
       .vlog2 t td ta 3, .vrcp t td ta 3, .vrsq t td ta 3, .vrsum t td ta 3, .vrmax t td ta 3, .vscale t td ta tb bc 3,
       .vscale t td ta tb 0 p, .vscale t td ta tb 3 p] : List Instr),
       s.clear t { words := 2 } = true → s.fetches t i = true → exec i s = s.faulted t 0x01 0x01 0 2) ∧
  (∀ (s : State) (t : Tid) (r rb : Reg) (m : MAddr) (n : Xb) (off : Word) (e : EndNo) (tn : LTile) (ln : LaneNo), r.val % 2 = 1 →
     (∀ i ∈ ([.mul t r rb, .mulu t r rb, .ldP t r m, .stP t r m, .ldfP t n r off, .stfP t n r off, .skstat t r ln, .recvC t r e,
       .tget t r tn, .dlarmA t r, .dlarmB t r, .dlarmBw t r] : List Instr),
       s.clear t {} = true → s.fetches t i = true → exec i s = s.faulted t 0x01 0x02 0) ∧
     ∀ i ∈ ([.finfoS t r e, .finfoN t r e, .finfoP t r e] : List Instr),
       s.clear t { words := 2 } = true → s.fetches t i = true → exec i s = s.faulted t 0x01 0x02 0 2)

/-- R130, R131, R132: DLARM arms a deadline with the count in the pair, low word first, DLARM.BW stores it as the bound of DLB, and DLDIS
sets the count to 0; DLARM.B and DLDIS.B end bound mode. At user level those of DLB take PRIV_OP. R439: an expired deadline of a thread
that may hold items gives it an item of vector 4 with the kind of wait and the PC of the instruction in execution or waited in (the
target of a REP, the operation at which PSW.PRECISE holds the thread), and sends Fraina a FAULT notice, whatever the mask. R380: the
notice of DLB carries the peer while the thread waits on a flume end. Log entries 46 and 54 name what here is the model's own reading
or choice. -/
def Obligations.Deadlines : Prop :=
  (∀ (s : State) (t : Tid) (rp : Reg), rp.val % 2 = 0 → parOk ((s.thr t).ctlP 0x01) = true →
     let v : Word32 := BitVec.ofNat 32 (((s.thr t).reg rp.val).toNat + 65536 * ((s.thr t).reg (rp.val + 1)).toNat)
     let goes (f : Thread → Thread) : Out := .next (s.modThr t (fun th => (f th).advance 1))
     (s.clear t { reads := [rp.val, rp.val + 1] } = true →
       (s.fetches t (.dlarmA t rp) = true → exec (.dlarmA t rp) s = goes (fun th => th.setDla v)) ∧
       ((s.thr t).sup = true →
         (s.fetches t (.dlarmB t rp) = true → exec (.dlarmB t rp) s = goes (fun th => { th.setDlb v with dlbBound := none })) ∧
         (s.fetches t (.dlarmBw t rp) = true → exec (.dlarmBw t rp) s = goes (fun th => { th.setDlb 0 with dlbBound := some v })))) ∧
     (s.clear t {} = true →
       ((s.thr t).sup = false →
         (s.fetches t (.dlarmB t rp) = true → exec (.dlarmB t rp) s = s.faulted t 0x02 0 0) ∧
         (s.fetches t (.dlarmBw t rp) = true → exec (.dlarmBw t rp) s = s.faulted t 0x02 0 0)) ∧
       (s.fetches t (.dldisA t) = true → exec (.dldisA t) s = goes (fun th => th.setDla 0)) ∧
       ((s.thr t).sup = true → s.fetches t (.dldisB t) = true →
         exec (.dldisB t) s = goes (fun th => { th.setDlb 0 with dlbBound := none })) ∧
       ((s.thr t).sup = false → s.fetches t (.dldisB t) = true → exec (.dldisB t) s = s.faulted t 0x02 0 0))) ∧
  (∀ (s : State) (t : Tid), s.runs = true → (s.thr t).takesItems = true →
     let th := s.thr t
     let peer : List Word := match th.st, th.park with
       | .parked, some ⟨.sendE e, _⟩ => [idLo (endPeer s.cfg e), idHi (endPeer s.cfg e)]
       | .parked, some ⟨.recv e, _⟩ => [idLo (endPeer s.cfg e), idHi (endPeer s.cfg e)]
       | _, _ => []
     let aux : BitVec 8 := match th.st, th.park with
       | .parked, some ⟨.settle _, _⟩ => 0x40
       | .parked, some ⟨.array _, _⟩ => 0x41
       | .parked, some ⟨.wait v, _⟩ => BitVec.ofNat 8 (0x60 + v)
       | .parked, some ⟨.sendE e, _⟩ => BitVec.ofNat 8 (0x80 + e)
       | .parked, some ⟨.recv e, _⟩ => BitVec.ofNat 8 (0x80 + e)
       | _, _ => 0
     let pc : Word := match th.rep, th.ops.getLast? with
       | some r, _ => r.tgt
       | none, some o => if th.precise = true ∧ th.st = .running then o.pc else th.pc
       | none, none => th.pc
     let out (code : BitVec 8) (more : List Word) (f : Thread → Thread) (r : Out) : Prop :=
       ∃ u, r = .next u ∧ u.thr t = { f th with deadlines := th.deadlines ++ [item code aux pc 0] } ∧
         (s.notices.length < 16 → u.notices = s.notices ++
           [⟨0x81, s.noticeSeq, [causeWord code aux, wd t.val, th.wt.setWidth 16, pc, 0] ++ more⟩])
     (th.dlaDue = true → out 0x40 [] (fun th => { th with dlaDue := false }) (exec (.deadlineA t) s)) ∧
     (th.dlbDue = true → th.dlaDue = false → out 0x41 peer (fun th => { th with dlbDue := false }) (exec (.deadlineB t) s)))

/-- R74, R91, R92, R93, R133: MFC writes the control word that the index names to rd, at every level; word 0 of a deadline captures its
word 1. A word with failing parity takes PARITY_REG with AUX 0x40 + index. An index that R92 does not list takes ILLEGAL_OP with AUX
0x06. R9, R11, R12, R91 to R94, R410: MTC at supervisor level writes the bits that the maps name (EVPEND clears the bits written as 1,
PSW keeps WORLD, MCHK.E is kept from 8 to 20), and leaves a read-only word; an RWS register's word in force stays until SYNC. At user
level a word of ring 2 takes PRIV_OP before its operand is read, and a write of PSW that changes more than PRECISE takes it. A write of
EVPEND with failing parity, of which bits are cleared, takes PARITY_REG (R74). Log entries 13 and 46 name what here is the model's own
reading or choice. -/
def Obligations.ControlWords : Prop :=
  (∀ (s : State) (t : Tid) (rd : Reg) (idx : BitVec 6), s.clear t { writes := [rd.val] } = true → s.fetches t (.mfc t rd idx) = true →
     let th := s.thr t
     let i := idx.toNat
     let w : ParWord := if i = 0x00 then th.pcw else if i = 0x20 then th.dlaw.1 else if i = 0x21 then th.dlaCap
       else if i = 0x22 then th.dlbw.1 else if i = 0x23 then th.dlbCap else if i = 0x2C then th.tidP t.val else th.ctlP i
     let goes (f : Thread → Thread) (w : Word) : Out := .next (s.modThr t (fun th => (f th).wrote [(rd.val, w)] 1))
     (0x2C < i → exec (.mfc t rd idx) s = s.faulted t 0x01 0x06 0) ∧
     (i ≤ 0x2C → parOk w = false → exec (.mfc t rd idx) s = s.faulted t 0x06 (BitVec.ofNat 8 (0x40 + i)) 0) ∧
     (i = 0x2C → parOk w = true → exec (.mfc t rd idx) s = goes id (wd t.val)) ∧
     (i < 0x2C → parOk w = true → exec (.mfc t rd idx) s =
       if i = 0x20 then goes (fun th => { th with dlaCap := th.dlaw.2 }) w.d
       else if i = 0x22 then goes (fun th => { th with dlbCap := th.dlbw.2 }) w.d
       else goes id w.d)) ∧
  (∀ (s : State) (t : Tid) (idx : BitVec 6) (rs : Reg), s.clear t {} = true → s.fetches t (.mtc t idx rs) = true →
     parOk ((s.thr t).ctlP 0x01) = true →
     let th := s.thr t
     let i := idx.toNat
     let w := th.reg rs.val
     let e := (w.toNat / 2) % 32
     let ro := i = 0x00 ∨ (0x20 ≤ i ∧ i ≤ 0x27) ∨ i = 0x2B ∨ i = 0x2C
     let psw : Word := wd (w.toNat % 64 + 4096 * (th.psw.toNat / 4096 % 2))
     let new : Word :=
       if i = 0x01 then psw
       else if i = 0x09 then th.ctlW 0x09 &&& ~~~w
       else if i = 0x2A then wd (w.toNat % 2 + 2 * (if e < 8 then 8 else if 20 < e then 20 else e))
       else wd (w.toNat &&& ctlMask i)
     let ring2 := ¬ ro ∧ i ≠ 0x01 ∧ i ≠ 0x05 ∧ i ≠ 0x0B ∧ i ≠ 0x28 ∧ i ≠ 0x29
     let more := i = 0x01 ∧ (psw ^^^ th.psw) &&& ~~~0x0020 ≠ 0
     (0x2C < i → exec (.mtc t idx rs) s = s.faulted t 0x01 0x06 0) ∧
     (i ≤ 0x2C → ring2 → th.sup = false → exec (.mtc t idx rs) s = s.faulted t 0x02 0 0) ∧
     (i ≤ 0x2C → s.clear t { reads := [rs.val] } = true →
       (more → th.sup = false → exec (.mtc t idx rs) s = s.faulted t 0x02 0 0) ∧
       (ro → exec (.mtc t idx rs) s = s.did t [] 1) ∧
       (i = 0x09 → th.sup = true → parOk (th.ctlP 0x09) = false → exec (.mtc t idx rs) s = s.faulted t 0x06 0x49 0) ∧
       (¬ ro → th.sup = true ∨ (¬ ring2 ∧ ¬ more) → (i = 0x09 → parOk (th.ctlP 0x09) = true) →
         exec (.mtc t idx rs) s = .next (s.modThr t (fun th => (th.setCtl i new).advance 1)))))

/-! ## Entry and return -/

/-- R424, R425, R426: a synchronous fault of a thread with PSW.ESC = 0, whose level exceeds PSW.MASK and whose frame passes the checks,
pushes the 12 words of the header at SSP - 28 and changes no other word of local memory; CAUSE and FADDR record it, LCNT and MROW are
0, PSW.LEVEL is 1 and PSW.MASK the level, the fill bits are 0, and control goes to vector 1. Log entries 13 and 38 name what here is
the model's own reading or choice. -/
def Obligations.FaultEntry : Prop :=
  ∀ (s : State) (t : Tid) (it : Item), s.runs = true → (s.thr t).st = .running → (s.thr t).sync = some it →
    (s.thr t).haltReq = none → (s.thr t).held = [] → (s.thr t).esc = false →
    let lvl := if it.held then 5 else 6
    let th := (s.thr t).syncRws.syncShapes
    (s.thr t).mask < lvl → s.frameCheck th = none →
    let ssp := th.ctlW 0x06 - 28
    let m := it.mrow.getD (th.ctlW 0x12, th.ctlW 0x13)
    let cause := wd (it.aux.toNat * 256 + it.code.toNat)
    ∃ u, exec (.exceptionEntry t) s = .next u ∧
      (List.range 12).map (fun i => (u.mget (ssp.toNat + i)).d) =
        [it.pc.getD th.pc, th.framePsw.getD th.psw, cause, it.fpc, it.faddr, th.ctlW 0x0B, m.1, m.2, wd th.wp,
          wd (b2n th.lfill + 2 * b2n th.sfill + 4 * b2n it.held + 8 * (if it.held then th.complMore else 0)), 0, 0] ∧
      (∀ b, (∀ k < 12, b % 65536 ≠ (ssp.toNat + k) % 65536) → u.mget b = s.mget b) ∧
      (u.thr t).pc = th.useW 0x08 + 4 ∧ (u.thr t).ctlW 0x06 = ssp ∧ (u.thr t).ctlW 0x02 = cause ∧
      (u.thr t).ctlW 0x03 = it.fpc ∧ (u.thr t).ctlW 0x04 = it.faddr ∧ (u.thr t).ctlW 0x0B = 0 ∧ (u.thr t).ctlW 0x12 = 0 ∧
      (u.thr t).ctlW 0x13 = 0 ∧ (u.thr t).sup = true ∧ (u.thr t).mask = lvl ∧ (u.thr t).esc = false ∧
      (u.thr t).lfill = false ∧ (u.thr t).sfill = false ∧ (u.thr t).regs = th.regs ∧ (u.thr t).sync = none ∧
      ∀ r, r ≠ t.val → u.thr r = s.thr r

/-- R424, R425, R444: a synchronous fault whose level does not exceed PSW.MASK escalates: it is delivered as ESCALATED with its code as AUX
at vector 0 with PSW.MASK = 7 and PSW.ESC = 1. A thread with PSW.ESC = 1 is felled instead, and no word of memory changes. R417, R418,
R419, R422, R424 to R426: a RUNNING or PARKED thread that nothing holds takes its deliverable item of highest level, among those of one
level the lowest vector, and among warden reports the oldest: the entry goes to EVB + 4 × vector with PSW.MASK at the level, CAUSE and
FADDR.ADDR as the item gives them, and PSW.ESC = 1 for level 8 but for a warden report; the item is no longer undelivered, EVPEND loses
the bit of a program event, and the count of further faults is in the frame and cleared. Log entries 13, 29 and 38 name what here is
the model's own reading or choice. -/
def Obligations.EscalationAndFelling : Prop :=
  (∀ (s : State) (t : Tid) (it : Item), s.runs = true → (s.thr t).st = .running → (s.thr t).sync = some it →
     (s.thr t).haltReq = none → (s.thr t).held = [] →
     let th := (s.thr t).syncRws.syncShapes
     ((s.thr t).esc = false → (if it.held then 5 else 6) ≤ (s.thr t).mask → s.frameCheck th = none →
       ∃ u, exec (.exceptionEntry t) s = .next u ∧ (u.thr t).pc = th.useW 0x08 ∧
         (u.thr t).ctlW 0x02 = wd (it.code.toNat * 256 + 0x50) ∧ (u.thr t).mask = 7 ∧ (u.thr t).esc = true ∧ (u.thr t).sup = true) ∧
     ((s.thr t).esc = true → ∃ u, exec (.exceptionEntry t) s = .next u ∧ (u.thr t).st = .felled ∧ u.mem = s.mem ∧
       (u.thr t).regs = (s.thr t).regs ∧ Tab.get 0 (u.thr t).lastgasp 0 = 0x50FF)) ∧
  (∀ (s : State) (t : Tid) (c : Nat × Nat × Pick) (it : Item), s.runs = true → (s.thr t).st = .running ∨ (s.thr t).st = .parked →
     (s.thr t).sync = none → (s.thr t).itemHold = false → s.parkReady t = false →
     ((s.thr t).precise = true → (s.thr t).st = .running → (s.thr t).ops = []) →
     let th := s.thr t
     let is (c : Nat × Nat × Pick) (lvl v : Nat) : Prop := c.1 = lvl ∧ c.2.1 = v ∧ (8 ≤ lvl ∨ th.mask < lvl)
     let due (c : Nat × Nat × Pick) (it : Item) : Prop := match c.2.2 with
       | .still => th.still = some it ∧ is c 8 0
       | .report i => s.warden = some t.val ∧ s.wardenQ[i]? = some it ∧ is c (if it.code = 0x60 then 8 else 7) 5
       | .compl => th.compl = some it ∧ (it.mrow = none ∨ th.mres = false) ∧ is c 5 2
       | .late => th.late = some it ∧ is c 5 3
       | .deadline => th.deadlines.head? = some it ∧ is c 6 4
       | .tvoid => th.tvoid = some it ∧ is c 1 7
       | .event v => it = item 0 (BitVec.ofNat 8 v) 0 0 ∧ bit (th.ctlW 0x09) v = true ∧ bit (th.ctlW 0x0A) v = true ∧ 8 ≤ v ∧ v < 16 ∧
           is c (v - 8) v
     let fault : Prop := match c.2.2 with
       | .still | .compl | .late | .deadline => True
       | _ => False
     let left (u : Thread) (f : Thread →
       Thread) : Prop := (u.still, u.compl, u.complMore, u.late, u.lateMore, u.deadlines, u.tvoid, u.ctlP 0x09) =
       ((f th).still, (f th).compl, (f th).complMore, (f th).late, (f th).lateMore, (f th).deadlines, (f th).tvoid, (f th).ctlP 0x09)
     let thx := th.syncRws.syncShapes
     let ssp := thx.ctlW 0x06 - 28
     due c it →
     (∀ d x, due d x → d = c ∨ d.1 < c.1 ∨ (d.1 = c.1 ∧ c.2.1 < d.2.1) ∨
       ∃ i j, c.2.2 = .report i ∧ d.2.2 = .report j ∧ d.1 = c.1 ∧ i < j) →
     (fault → th.esc = false) → s.frameCheck thx = none →
     ∃ u, exec (.exceptionEntry t) s = .next u ∧ (u.thr t).st = .running ∧ (u.thr t).pc = thx.useW 0x08 + wd (4 * c.2.1) ∧
       (u.thr t).mask = min c.1 7 ∧ (u.thr t).sup = true ∧
       (u.thr t).esc = (th.esc || match c.2.2 with
         | .report _ => false
         | _ => c.1 == 8) ∧
       (u.thr t).ctlW 0x02 = wd (it.aux.toNat * 256 + it.code.toNat) ∧ (u.thr t).ctlW 0x04 = it.faddr ∧ (u.thr t).ctlW 0x06 = ssp ∧
       (fault → (u.thr t).ctlW 0x03 = it.fpc) ∧ (u.mget ssp.toNat).d = it.pc.getD th.pc ∧
       (u.mget (ssp.toNat + 9)).d = wd (b2n th.lfill + 2 * b2n th.sfill + 4 * b2n it.held + 8 * (match c.2.2 with
         | .compl => th.complMore
         | .late => th.lateMore
         | _ => 0)) ∧
       u.wardenQ = (match c.2.2 with
         | .report i => s.wardenQ.eraseIdx i
         | _ => s.wardenQ) ∧
       left (u.thr t) (fun th => match c.2.2 with
         | .still => { th with still := none }
         | .report _ => th
         | .compl => { th with compl := none, complMore := 0 }
         | .late => { th with late := none, lateMore := 0 }
         | .deadline => { th with deadlines := th.deadlines.tail }
         | .tvoid => { th with tvoid := none }
         | .event v => th.setCtl 0x09 (th.ctlW 0x09 &&& ~~~(wd (2 ^ v)))))

/-- R412: GATE n at user level with n below 64 and entry n of the thread's world enabled performs an entry with CAUSE.CODE 0 and CAUSE.AUX
n: the frame PC follows the GATE, the handler comes from the table, the mask is raised to GMASK. With EN = 0 the GATE faults with AUX
n, as does a GATE 64 to 127 at user level or a GATE 0 to 63 at supervisor level (R128). Log entries 13 and 38 name what here is the
model's own reading or choice. -/
def Obligations.GateEntry : Prop :=
  ∀ (s : State) (t : Tid) (n : BitVec 7), s.clear t { uses := [0x01] } = true →
    (((s.thr t).sup = false ∧ 64 ≤ n.toNat) ∨ ((s.thr t).sup = true ∧ n.toNat < 64) → s.fetches t (.gate t n) = true →
      exec (.gate t n) s = s.faulted t 0x0A (BitVec.ofNat 8 n.toNat) 0) ∧
    ((s.thr t).sup = false → (s.thr t).held = [] → n.toNat < 64 →
    let th := (s.thr t).syncRws.syncShapes
    let w1 := gateW s.cfg th.world n.toNat 1
    let ssp := th.ctlW 0x06 - 28
    (bit w1 0 = false → s.fetches t (.gate t n) = true → exec (.gate t n) s = s.faulted t 0x0A (BitVec.ofNat 8 n.toNat) 0) ∧
    (bit w1 0 = true → s.frameCheck th = none →
      s.fetches t (.gate t n) = true → ∃ u, exec (.gate t n) s = .next u ∧ (u.thr t).pc = gateW s.cfg th.world n.toNat 0 ∧
        (u.mget ssp.toNat).d = th.pc + 1 ∧ (u.mget (ssp.toNat + 1)).d = th.framePsw.getD th.psw ∧
          (u.mget (ssp.toNat + 2)).d = wd (256 * n.toNat) ∧
        (u.thr t).ctlW 0x06 = ssp ∧ (u.thr t).sup = true ∧ (u.thr t).mask = max th.mask (fld w1 3 1) ∧
        (u.thr t).esc = th.esc ∧ (u.thr t).regs = th.regs))

/-- R431: ERET at ring 2 with an even SSP, a readable frame and good parity restores PC, PSW but for WORLD, LCNT, MROW and WP, the L
registers where LFILL = 1, the shapes where SFILL = 1, and sets LFILL and SFILL from the flags and SSP := SSP + 28; memory is
unchanged. At user level it takes PRIV_OP; an odd SSP, a frame past the end of memory or a word of it without R fells the thread with
reason 0x04, 0x08 or 0x03; a word that it reads with failing parity takes PARITY_LM with AUX 0x07, and nothing is restored. -/
def Obligations.EretRestores : Prop :=
  ∀ (s : State) (t : Tid),
    let th := (s.thr t).syncRws.syncShapes
    let ssp := (th.ctlW 0x06).toNat
    let w (i : Nat) : Word := (s.mget (ssp + i)).d
    let frame : List Nat := List.range 12 ++ (if th.lfill then (List.range 8).map (· + 12) else []) ++
      (if th.sfill then (List.range 8).map (· + 20) else [])
    let fells (reason : Nat) : Prop := ∃ u, exec (.eret t) s = .next u ∧ (u.thr t).st = .felled ∧
      Tab.get 0 (u.thr t).lastgasp 0 = wd (256 * reason + 255) ∧ u.mem = s.mem
    s.fetches t (.eret t) = true →
    (s.clear t {} = true → (s.thr t).sup = false → parOk ((s.thr t).ctlP 0x01) = true → exec (.eret t) s = s.faulted t 0x02 0 0) ∧
    (s.clear t { sup := true, uses := [0x06], writes := if (s.thr t).lfill then [8, 9, 10, 11, 12, 13, 14, 15] else [] } = true →
    (ssp % 2 = 1 → fells 0x04) ∧ (ssp % 2 = 0 → 65536 < ssp + 28 → fells 0x08) ∧
    (ssp % 2 = 0 → ssp + 28 ≤ 65536 → s.firstBad th.wt ssp 28 .r ≠ none → fells 0x03) ∧
    (ssp % 2 = 0 → ssp + 28 ≤ 65536 → s.firstBad th.wt ssp 28 .r = none →
    (∀ k i, frame[k]? = some i → (∀ j ∈ frame.take k, parOk (s.mget (ssp + j)) = true) → parOk (s.mget (ssp + i)) = false →
      exec (.eret t) s = (s.modThr t (fun th => th.syncRws.syncShapes)).faulted t 0x05 0x07 (wd (ssp + i)) (k / 2 + 2)) ∧
    ((∀ i ∈ frame, parOk (s.mget (ssp + i)) = true) → ∃ u, exec (.eret t) s = .next u ∧ u.mem = s.mem ∧ (u.thr t).pc = w 0 ∧
      (u.thr t).psw = wd ((w 1).toNat % 64 + 4096 * (th.psw.toNat / 4096 % 2)) ∧ (u.thr t).ctlW 0x0B = w 5 ∧
      (u.thr t).ctlW 0x12 = w 6 ∧ (u.thr t).ctlW 0x13 = w 7 ∧ (u.thr t).wp = (w 8).toNat % 4 ∧
      (u.thr t).ctlW 0x06 = wd (ssp + 28) ∧ (u.thr t).lfill = bit (w 9) 0 ∧ (u.thr t).sfill = bit (w 9) 1 ∧
      (if th.lfill then ∀ n < 8, (u.thr t).reg (8 + n) = w (12 + n) else (u.thr t).regs = th.regs) ∧
      (if th.sfill then ∀ n < 8, (u.thr t).shape n = w (20 + n) else (u.thr t).shapes = th.shapes))))

/-! ## Contexts -/

/-- R81 to R85: SAVEH and SAVEL at supervisor level, with nothing outstanding, a free area that one compartment entry covers and correct
parity, write the link, the header and the saved words of R82 to the area, and move the area from the free list to the context list.
R81 to R86: RESTH and RESTL of an area of their kind with correct parity load the registers from the words of R82, write SAVEP to the
link, and move the area from the context list to the free list; RESTL goes on at the restored PC with the restored PSW but for WORLD,
and its RWS words wait for SYNC. R83, R84: a save with an empty free list takes SAVE_EMPTY with AUX 1, a restore with an empty context
list with AUX 2, and a restore of an area of the other kind with AUX 3; an area address that is no multiple of 4 takes ALIGN, an area
that no one entry covers with R and W COMPARTMENT, and a link or header with failing parity PARITY_LM with the lower failing address. A
register to be saved with failing parity, in the order of the area and then SAVEP and CTXL, takes PARITY_REG. At user level each takes
PRIV_OP. Log entries 14, 39 and 40 name what here is the model's own reading or choice. -/
def Obligations.ContextAreas : Prop :=
  (∀ (s : State) (t : Tid) (rs : Reg), s.clear t { sup := true } = true → (s.thr t).held = [] → (s.thr t).ops = [] →
     let th := s.thr t
     let a := (th.ctlW 0x0D).toNat
     a ≠ 0 → a % 4 = 0 → oneCovers s.cfg th.wt a (a + 47) = true → parOk (s.mget a) = true → parOk (s.mget (a + 1)) = true →
     (∀ i ≤ 0x2C, parOk (th.ctlP i) = true) → (∀ n < 40, parOk (th.regP n) = true) →
     let s' : State := { s with merge := s.merge.map (fun m => if m.threads.contains t.val then { m with due := true } else m) }
     let saved (hdr : Word) (ws : List Word) (acc : Nat) : Out := .next ((s'.msetList a ([th.ctlW 0x0E, hdr] ++
       ws)).modThr t (fun th =>
       ((th.setCtl 0x0D (wd ((s.mget a).d.toNat / 4 * 4))).setCtl 0x0E (wd a)).advance 1 acc))
     let c (i n : Nat) : List Word := (List.range n).map (fun k => th.ctlW (i + k))
     (s.fetches t (.saveh t) = true →
       exec (.saveh t) s = saved (wd (0x8000 + th.wp)) ((List.range 32).map (fun i => (th.regP (8 + i)).d)) 17) ∧
     (s.fetches t (.savel t rs) = true →
       exec (.savel t rs) s = saved 0x4000 ((List.range 8).map (fun i => (th.regP i).d) ++ [th.reg rs.val] ++ c 0x01 1 ++ c 0x0B 1 ++
       c 0x14 12 ++ c 0x12 2 ++ c 0x0F 2 ++ [0]) 15)) ∧
  (∀ (s : State) (t : Tid), (s.thr t).held = [] → (s.thr t).ops = [] →
     let th := s.thr t
     let a := (th.ctlW 0x0E).toNat
     a ≠ 0 → a % 4 = 0 → oneCovers s.cfg th.wt a (a + 47) = true → (∀ i < 34, parOk (s.mget (a + i)) = true) →
     parOk (th.ctlP 0x0D) = true → parOk (th.ctlP 0x0E) = true →
     let w (i : Nat) : Word := (s.mget (a + i)).d
     let lists (u : State) : Prop := (u.thr t).ctlW 0x0E = wd ((w 0).toNat / 4 * 4) ∧ (u.thr t).ctlW 0x0D = wd a ∧
       ∀ b, (u.mget b).d = if b % 65536 = a then th.ctlW 0x0D else (s.mget b).d
     (s.clear t { sup := true, spills := true } = true → (w 1).toNat / 16384 = 2 →
       s.fetches t (.resth t) = true → ∃ u, exec (.resth t) s = .next u ∧ lists u ∧
         (∀ i < 32, (u.thr t).regP (8 + i) = pw (w (2 + i))) ∧
         (∀ n < 8, (u.thr t).regP n = th.regP n) ∧ (u.thr t).wp = (w 1).toNat % 4 ∧ (u.thr t).pc = th.pc + 1) ∧
     (s.clear t { sup := true } = true → (w 1).toNat / 16384 = 1 →
       s.fetches t (.restl t) = true → ∃ u, exec (.restl t) s = .next u ∧ lists u ∧ (∀ n < 8, (u.thr t).regP n = pw (w (2 + n))) ∧
         (∀ i < 32, (u.thr t).regP (8 + i) = th.regP (8 + i)) ∧ (u.thr t).pc = w 10 ∧
         (u.thr t).psw = wd ((w 11).toNat % 64 + 4096 * (th.psw.toNat / 4096 % 2)) ∧ (u.thr t).ctlW 0x0B = w 12 ∧
         (∀ k < 12, (u.thr t).ctlW (0x14 + k) = wd ((w (13 + k)).toNat &&& ctlMask (0x14 + k))) ∧
         (u.thr t).ctlW 0x12 = w 25 ∧ (u.thr t).ctlW 0x13 = w 26 ∧ (u.thr t).ctlW 0x0F = w 27 ∧ (u.thr t).ctlW 0x10 = w 28 ∧
         (u.thr t).act = th.act)) ∧
  (∀ (s : State) (t : Tid) (rs : Reg),
     (s.clear t {} = true → (s.thr t).sup = false → parOk ((s.thr t).ctlP 0x01) = true →
       ∀ i ∈ ([.saveh t, .savel t rs, .resth t, .restl t] : List Instr), s.fetches t i = true → exec i s = s.faulted t 0x02 0 0) ∧
     (s.clear t { sup := true, spills := true } = true → (s.thr t).held = [] → (s.thr t).ops = [] →
     (∀ m ∈ s.merge, t.val ∉ m.threads) →
     let th := s.thr t
     let heads : List (Nat × ParWord) := [(0x4D, th.ctlP 0x0D), (0x4E, th.ctlP 0x0E)]
     let c (i : Nat) : Nat × ParWord := (0x40 + i, th.ctlP i)
     let upper := (List.range 32).map (fun i => (8 + i % 8, th.regP (8 + i))) ++ heads
     let lower := (List.range 8).map (fun n => (n, th.regP n)) ++ [(rs.val, th.regP (th.regNo rs.val)), c 0x01, c 0x0B] ++
       (List.range 12).map (fun k => c (0x14 + k)) ++ [c 0x12, c 0x13, c 0x0F, c 0x10] ++ heads
     let fails (i : Instr) (l : List (Nat × ParWord)) : Prop := ∀ k e, l[k]? = some e → (∀ f ∈ l.take k, parOk f.2 = true) →
       parOk e.2 = false → s.fetches t i = true → exec i s = s.faulted t 0x06 (BitVec.ofNat 8 e.1) 0
     (parOk (th.ctlP 0x0C) = true → fails (.saveh t) upper ∧ fails (.savel t rs) lower) ∧ fails (.resth t) heads ∧
       fails (.restl t) heads ∧
     ((∀ i ≤ 0x2C, parOk ((s.thr t).ctlP i) = true) → (∀ n < 40, parOk ((s.thr t).regP n) = true) →
     let free := (s.thr t).ctlW 0x0D
     let ctx := (s.thr t).ctlW 0x0E
     let one (a : Nat) : Bool := (List.range 16).any (fun n => cmpCovers s.cfg n th.wt (a / 256) && cmpCovers s.cfg n th.wt ((a + 47) / 256))
     let denied (a : Word) : Out := s.faulted t 0x03 (if 0xFFFF < a.toNat + 47 then 0x03 else if one a.toNat then 0x02 else 0x01) a
     let bad (i : Instr) (a : Word) : Prop := s.fetches t i = true → a ≠ 0 →
       (a.toNat % 4 ≠ 0 → exec i s = s.faulted t 0x04 0 a) ∧
       (a.toNat % 4 = 0 → oneCovers s.cfg th.wt a.toNat (a.toNat + 47) = false → exec i s = denied a) ∧
       (a.toNat % 4 = 0 → oneCovers s.cfg th.wt a.toNat (a.toNat + 47) = true →
         (parOk (s.mget a.toNat) = false → exec i s = s.faulted t 0x05 0 a 2) ∧
         (parOk (s.mget a.toNat) = true → parOk (s.mget (a.toNat + 1)) = false → exec i s = s.faulted t 0x05 0 (a + 1) 2))
     bad (.saveh t) free ∧ bad (.savel t rs) free ∧ bad (.resth t) ctx ∧ bad (.restl t) ctx ∧
     (free = 0 → (s.fetches t (.saveh t) = true → exec (.saveh t) s = s.faulted t 0x17 1 0) ∧ (s.fetches t (.savel t rs) = true →
       exec (.savel t rs) s = s.faulted t 0x17 1 0)) ∧
     (ctx = 0 → (s.fetches t (.resth t) = true → exec (.resth t) s = s.faulted t 0x17 2 0) ∧ (s.fetches t (.restl t) = true →
       exec (.restl t) s = s.faulted t 0x17 2 0)) ∧
     (ctx ≠ 0 → ctx.toNat % 4 = 0 → oneCovers s.cfg (s.thr t).wt ctx.toNat (ctx.toNat + 47) = true →
       parOk (s.mget ctx.toNat) = true → parOk (s.mget (ctx.toNat + 1)) = true →
       ((s.mget (ctx.toNat + 1)).d.toNat / 16384 ≠ 2 → s.fetches t (.resth t) = true → exec (.resth t) s = s.faulted t 0x17 3 0 2) ∧
       ((s.mget (ctx.toNat + 1)).d.toNat / 16384 ≠ 1 → s.fetches t (.restl t) = true → exec (.restl t) s = s.faulted t 0x17 3 0 2)))))

/-! ## Ring-1 services -/

/-- R413, R414: a GATE 64 to 127 at supervisor level whose entry does not permit the call takes GATE with AUX n. R414, R415, R416: a
permitted service that can begin does what the table says. SEED_RESET, CLEAR_TALLY and NOTIFY_HOST complete at once with their result
in G0 (NOTIFY_HOST reads G2 and G3 as well, which have good parity and no pending write: R64, R73); CLOCK_STEP asks for the divisor and
FREQ for a count and hold the thread; ARRAY_TEST clears the records of an idle array and holds the thread, or answers 2. Log entry 15
names what here is the model's own reading or choice. -/
def Obligations.Services : Prop :=
  (∀ (s : State) (t : Tid) (n : BitVec 7), (s.thr t).sup = true → 64 ≤ n.toNat → s.fetches t (.gate t n) = true →
     s.clear t { reads := if (hgateW s.cfg n.toNat 0).toNat % 8 = 6 then [0, 2, 3] else [0], regNos := [0, 1], uses := [0x01] } = true →
     let g0 := ((s.thr t).regP 0).d
     let w0 := hgateW s.cfg n.toNat 0
     (¬ (bit w0 (if (s.thr t).world then 4 else 3) = true ∧ (hgateW s.cfg n.toNat 1).toNat ≤ g0.toNat ∧
       g0.toNat ≤ (hgateW s.cfg n.toNat 2).toNat ∧ svcArgOk (w0.toNat % 8) g0 = true)) →
     exec (.gate t n) s = s.faulted t 0x0A (BitVec.ofNat 8 n.toNat) 0 ∧
     (w0.toNat % 8 = 1 → exec (.clockStep t n) s = exec (.gate t n) s) ∧ (w0.toNat % 8 = 2 →
       exec (.arrayTest t n) s = exec (.gate t n) s) ∧
     (w0.toNat % 8 = 3 → exec (.seedReset t n) s = exec (.gate t n) s) ∧ (w0.toNat % 8 = 4 → exec (.freq t n) s = exec (.gate t n) s) ∧
     (w0.toNat % 8 = 5 → exec (.clearTally t n) s = exec (.gate t n) s) ∧
     (w0.toNat % 8 = 6 → exec (.notifyHost t n) s = exec (.gate t n) s)) ∧
  (∀ (s : State) (t : Tid) (n : BitVec 7), (s.thr t).sup = true → 64 ≤ n.toNat → s.fetches t (.gate t n) = true →
     s.clear t { reads := if (hgateW s.cfg n.toNat 0).toNat % 8 = 6 then [0, 2, 3] else [0], regNos := [0, 1], uses := [0x01] } = true →
     s.svcBusy = false →
     let g0 := ((s.thr t).regP 0).d
     let w0 := hgateW s.cfg n.toNat 0
     bit w0 (if (s.thr t).world then 4 else 3) = true → (hgateW s.cfg n.toNat 1).toNat ≤ g0.toNat →
     g0.toNat ≤ (hgateW s.cfg n.toNat 2).toNat → svcArgOk (w0.toNat % 8) g0 = true →
     let holding (code : Nat) : State := s.modThr t (fun th =>
       { th.left 1 with service := some ⟨code, g0⟩ })
     (w0.toNat % 8 = 1 →
       (g0.toNat = s.clk.div → exec (.clockStep t n) s = s.did t [(0, wd s.clk.div)] 1) ∧
       (g0.toNat ≠ s.clk.div → exec (.clockStep t n) s = .next { holding 1 with
         clk := { s.clk with switch := some ⟨1, 0, g0.toNat, some t.val, false, false⟩, queue := [] } })) ∧
     (w0.toNat % 8 = 2 →
       (s.testable g0.toNat = false → exec (.arrayTest t n) s = s.did t [(0, 2)] 1) ∧
       (s.testable g0.toNat = true → ∃ u, exec (.arrayTest t n) s = .next u ∧ (u.arr g0.toNat).testing = some t.val ∧
         (u.arr g0.toNat).recs = [] ∧ (∀ e ∈ (u.arr g0.toNat).tabs, e.2.owner = none) ∧ u.threads = (holding 2).threads)) ∧
     (w0.toNat % 8 = 3 → exec (.seedReset t n) s = .next (s.modThr t (fun th =>
       ((th.setCtl 0x28 (declW s.cfg t 6)).setCtl 0x29 (declW s.cfg t 7)).wrote [(0, 0)] 1))) ∧
     (w0.toNat % 8 = 4 → s.clk.freq = none →
       exec (.freq t n) s = .next { holding 4 with clk := { s.clk with freq := some ⟨some t.val, g0, false, 0, 0, 0⟩ } }) ∧
     (w0.toNat % 8 = 5 → ∃ u, exec (.clearTally t n) s = .next u ∧ u.threads = (s.modThr t (fun th => th.wrote [(0, 0)] 1)).threads ∧
       ∀ i, Tab.get 0 u.tally i =
         if (bit g0 0 = true ∧ i < 0x14) ∨ (bit g0 1 = true ∧ 0x18 ≤ i ∧ i < 0x1E) ∨ (bit g0 2 = true ∧ 0x20 ≤ i ∧ i < 0x25) then 0
         else Tab.get 0 s.tally i) ∧
     (w0.toNat % 8 = 6 →
       ((s.thr t).notifyAge = none → ∃ u, exec (.notifyHost t n) s = .next u ∧
         u.thr t = { (s.thr t).wrote [(0, 1)] 1 with notifyAge := some 0 } ∧
         (s.notices.length < 16 → u.notices = s.notices ++ [⟨0x85, s.noticeSeq,
           [g0, ((s.thr t).regP 2).d, ((s.thr t).regP 3).d, wd t.val, (s.thr t).wt.setWidth 16]⟩])) ∧
       ((s.thr t).notifyAge ≠ none → ∃ u, exec (.notifyHost t n) s = .next u ∧ u.thr t = (s.thr t).wrote [(0, 0)] 1 ∧
         u.notices = s.notices ∧ Tab.get 0 u.tally 0x2A = satAdd (Tab.get 0 s.tally 0x2A) 1)))

/-! ## Tile registers -/

/-- R95, R218, R222 to R226, R430: TCFG of a mapped tile whose shape fits stores the pending shape, SYNC.T makes pending shapes active, and
TGET writes the active shape and the status word. An unmapped tile takes TILE_VIEW, a shape above 512 words TILE_CFG, and neither
spills. The handler's first TCFG that passes its checks spills the 8 active shapes to SSP + 20 to SSP + 27 in 4 slots and sets SFILL;
where a word of the frame's areas may not be written the thread is felled with reason 0x03. -/
def Obligations.TileConfiguration : Prop :=
  ∀ (s : State) (t : Tid) (tn : LTile) (shape : Word) (r : Reg),
    let th := s.thr t
    let p := th.phys tn.val
    let mapped := tileOwner s.cfg p = some t.val
    let uses := [0x0F + tn.val / 4]
    let ssp := (th.ctlW 0x06).toNat
    let cfg (w : Word) (i : Instr) : Prop :=
      let fits := (shRows w + 1) * shWpr w ≤ 512
      let pend (th : Thread) : Thread := { th with pshapes := Tab.put th.pshapes tn.val w }
      s.fetches t i = true →
      (¬ mapped → exec i s = s.faulted t 0x16 (BitVec.ofNat 8 tn.val) 0 2) ∧
      (mapped → ¬ fits → exec i s = s.faulted t 0x11 0x01 0 2) ∧
      (mapped → fits → th.sfill = true → exec i s = .next (s.modThr t (fun th => (pend th).advance 2))) ∧
      (mapped → fits → th.sfill = false → parOk (th.ctlP 0x06) = true →
        ((s.firstBad th.wt (ssp + 12) 16 .w).isNone = true → exec i s =
          .next ((s.msetList (ssp + 20) ((List.range 8).map th.shape)).modThr t (fun th => { (pend th).advance 2 4 with sfill := true }))) ∧
        ((s.firstBad th.wt (ssp + 12) 16 .w).isSome = true → ∃ u, exec i s = .next u ∧ (u.thr t).st = .felled ∧
          Tab.get 0 (u.thr t).lastgasp 0 = 0x03FF ∧ u.mem = s.mem))
    (s.clear t { words := 2, uses := uses } = true → cfg shape (.tcfgI t tn shape)) ∧
    (s.clear t { words := 2, reads := [r.val], uses := uses } = true → cfg (th.reg r.val) (.tcfgR t tn r)) ∧
    (s.clear t {} = true → s.fetches t (.syncT t) = true →
      exec (.syncT t) s = .next (s.modThr t (fun th => th.syncShapes.advance 1))) ∧
    (r.val % 2 = 0 → s.clear t { words := 2, writes := [r.val, r.val + 1], uses := uses } = true →
      s.fetches t (.tget t r tn) = true → exec (.tget t r tn) s = s.did t [(r.val, th.shape tn.val), (r.val + 1,
        wd (p + (if mapped ∧ s.poisoned p = true then 16 else 0) + (if (Tab.find th.pshapes tn.val).isSome then 32 else 0) +
          (if mapped then 64 else 0)))] 2)

/-- R218, R230 to R234, R240, R247: a TLD, TST or TZERO of a mapped tile with room for it and with its ranges permitted is handed off to
the engine of its physical tile, with the tile and the shape it resolved; an unmapped tile, a poisoned source of a TST and a range
without permission fault, in this order. A TLD or TST with MROW.RES = 1 sets MROW to 0 and resumes from row IDX, a sealed one rereading
the rows before it; an IDX above ROWS takes TILE_SHAPE with AUX 0x05. R149, R230, R231: the range of a TLD or TST runs from the base to
the last word of its last row, and passes only where it ends within 0xFFFF and every granule grants R for a load and W for a store; a
sealed one needs the same of its slot. Log entries 13 and 62 name what here is the model's own reading or choice. -/
def Obligations.TileOperationsIssueInRange : Prop :=
  (∀ (s : State) (t : Tid) (tn : LTile) (ra rs : Reg) (bzi : BitVec 6), (s.thr t).tilePending < 2 →
     let th := s.thr t
     let p := th.phys tn.val
     let shape := th.shape tn.val
     let base := (th.reg ra.val).toNat
     let stride := (th.reg rs.val).toNat
     let mapped := tileOwner s.cfg p = some t.val
     let go (s : State) (k : TileKind) (words ba st sl bi from_ row : Nat) : Out :=
       .next { s.handed t 3 [] [] (k = .tst || k = .tstU) words with
         eng := Tab.put s.eng (p % 2) (s.engQ (p % 2) ++
           [{ TileOp.fresh s.nextId t th.pc k p tn shape ba st sl bi with from_ := from_, row := row }]) }
     let move (k : TileKind) (load sealed : Bool) (bi : Nat) (i : Instr) : Prop :=
       let slot := (th.useW 0x11).toNat + 2 * bi
       let uses := [0x0F + tn.val / 4, 0x12, 0x13] ++ (if sealed then [0x11] else [])
       let idx := if th.mres then th.mrow0.toNat else 0
       let s' := if th.mres then s.modThr t (fun th => th.setMrow 0 0) else s
       s.clear t { words := 2, reads := [ra.val, rs.val], uses := uses, long := true } = true → s.fetches t i = true → exec i s =
         if ¬ mapped then s.faulted t 0x16 (BitVec.ofNat 8 tn.val) 0 2
         else if shRows shape < idx then s.faulted t 0x10 0x05 0 2
         else if load = false ∧ s.poisoned p = true then s.faulted t 0x12 (BitVec.ofNat 8 tn.val) 0 2
         else match s.tileRange th.wt k shape base stride slot with
           | some (aux, a) => s.faulted t 0x03 (BitVec.ofNat 8 aux) (wd a) 2
           | none => go s' k 2 base stride slot bi idx (if sealed then 0 else idx)
     move .tld true true bzi.toNat (.tld t tn ra rs bzi) ∧ move .tldU true false 0 (.tldU t tn ra rs) ∧
     move .tst false true bzi.toNat (.tst t tn ra rs bzi) ∧ move .tstU false false 0 (.tstU t tn ra rs) ∧
     (s.clear t { uses := [0x0F + tn.val / 4], long := true } = true → s.fetches t (.tzero t tn) = true → exec (.tzero t tn) s =
       if ¬ mapped then s.faulted t 0x16 (BitVec.ofNat 8 tn.val) 0 else go s .tzero 1 0 0 0 0 0 0)) ∧
  (∀ (s : State) (wt : WT) (k : TileKind) (shape : Word) (base stride slot : Nat), 0 < shWpr shape →
     let last := base + shRows shape * stride + shWpr shape - 1
     let pm : Perm := if k = .tld ∨ k = .tldU then .r else .w
     let ok (lo hi : Nat) : Prop := hi ≤ 0xFFFF ∧ ∀ g, lo / 256 ≤ g → g ≤ hi / 256 → granCheck s.cfg wt g pm = none
     s.tileRange wt k shape base stride slot = none ↔ ok base last ∧ (k = .tld ∨ k = .tst → ok slot (slot + 1)))

/-- R234, R236, R242, R243: the first operation of an engine that has not begun begins once every earlier one has made its last port cycle;
a sealed TLD then reads its slot, and a sealed TST writes 0xFFFF_FFFF to it. R230, R235, R239, R243, R245: a transfer cycle of a load
writes the tile words of its span from the words of local memory and changes no other tile word and no memory, and one of a store
writes local memory from the tile; a tile word with failing parity stops a store, which writes nothing and poisons the tile. A port
cycle of a TZERO writes 32 zeros. R239, R307: while PSW.PRECISE holds a thread at a TLD or TST, a program event stops the operation
after its row in progress: between two rows at once, with MROW.IDX at the next row and RES = 1 in the frame, the PC of the operation as
the frame PC, and the operation off its engine; within a row, at the end of that row. One stops an MSTREAM at the first pass not
started. Log entries 23 and 29 name what here is the model's own reading or choice. -/
def Obligations.TileOperationsRun : Prop :=
  (∀ (s : State) (x : EngNo) (o : TileOp), s.flows = true → (s.engQ x.val).find? (fun o => !o.begun) = some o →
     (∀ b ∈ s.engQ x.val, b.begun = true → b.finished = true ∧ b.kind ≠ .tst) →
     let goes (s : State) (o' : TileOp) : State := { s with eng := s.eng.mapVal (fun q => q.map (fun y => if y.id = o.id then o' else y)) }
     exec (.tileOpStart x) s = .next (
       if o.kind = .tld then goes s { o with begun := true, slotVal := ((s.mget o.slot).d, (s.mget (o.slot + 1)).d),
                                             badSlot := !(parOk (s.mget o.slot) && parOk (s.mget (o.slot + 1))) }
       else if o.kind = .tst then goes ((s.mset o.slot 0xFFFF).mset (o.slot + 1) 0xFFFF) { o with begun := true }
       else goes s { o with begun := true })) ∧
  (∀ (s : State) (x : EngNo) (o : TileOp), s.flows = true →
     (s.engQ x.val).find? (fun o => o.begun && !o.finished) = some o → o.from_ ≤ o.row → o.stopReq = false →
     let w := o.span.1
     let a := o.span.2.1
     let n := o.span.2.2.1
     (o.kind = .tld ∨ o.kind = .tldU → w + n ≤ 512 →
       ∃ u, exec (.transferCycle x) s = .next u ∧ u.mem = s.mem ∧ u.poison = s.poison ∧
         ∀ p < 16, ∀ i < 512, u.tget p i = if p = o.tile ∧ w ≤ i ∧ i < w + n then pw (s.mget (a + (i - w))).d else s.tget p i) ∧
     (o.kind = .tst ∨ o.kind = .tstU → a + n ≤ 65536 → (∀ i < n, parOk (s.tget o.tile (w + i)) = true) →
       ∃ u, exec (.transferCycle x) s = .next u ∧ u.tiles = s.tiles ∧
         ∀ b < 65536, u.mget b = if a ≤ b ∧ b < a + n then pw (s.tget o.tile (w + (b - a))).d else s.mget b) ∧
     (∀ i, o.kind = .tst ∨ o.kind = .tstU → i < n → parOk (s.tget o.tile (w + i)) = false →
       ∃ u, exec (.transferCycle x) s = .next u ∧ u.mem = s.mem ∧ u.tiles = s.tiles ∧ u.poisoned o.tile = true) ∧
     (o.kind = .tzero → o.cyc < 16 → o.tile < 16 →
       ∃ u, exec (.transferCycle x) s = .next u ∧ u.mem = s.mem ∧
         ∀ p < 16, ∀ i < 512, u.tget p i = if p = o.tile ∧ 32 * o.cyc ≤ i ∧ i < 32 * o.cyc + 32 then pw0 else s.tget p i)) ∧
  (∀ (s : State) (t : Tid) (op : LongOp) (lvl v : Nat), s.runs = true → (s.thr t).st = .running → (s.thr t).sync = none →
     (s.thr t).itemHold = false → (s.thr t).precise = true → (s.thr t).ops = [op] → op.prec = true → (s.thr t).compl = none →
     s.choose t = some (lvl, v, .event v) →
     (∀ o, s.tileOp op.id = some o → o.id = op.id → o.tid = t.val → o.kind ≠ .tzero → o.finished = false → o.row ≤ shRows o.shape →
       (o.cyc ≠ 0 → ∃ u, exec (.exceptionEntry t) s = .next u ∧ u.thr t = s.thr t ∧ u.mem = s.mem ∧
         ∀ x, u.engQ x = (s.engQ x).map (fun q => if q.id = op.id then { q with stopReq := true } else q)) ∧
       (o.cyc = 0 → (o.kind = .tldU → o.badAt = none) →
         let thx := (s.thr t).syncRws.syncShapes
         let ssp := (thx.ctlW 0x06 - 28).toNat
         s.frameCheck thx = none →
         ∃ u, exec (.exceptionEntry t) s = .next u ∧ (u.thr t).ops = [] ∧ (u.thr t).pc = thx.useW 0x08 + wd (4 * v) ∧
           (u.mget ssp).d = o.pc ∧ (u.mget (ssp + 6)).d = wd o.row ∧ (u.mget (ssp + 7)).d = 0x8000 ∧
           ∀ x, ∀ q ∈ u.engQ x, q.id ≠ op.id)) ∧
     (s.tileOp op.id = none → ∀ a < 2, ∀ p, (s.arr a).passes.find? (fun p => p.sid = op.id && p.phase = .waiting) = some p →
       ∃ u, exec (.exceptionEntry t) s = .next u ∧ u.thr t = s.thr t ∧ u.mem = s.mem ∧
         (u.arr a).passes = (s.arr a).passes.filter (fun q => !(decide (q.sid = op.id) && decide (q.phase = .waiting))) ∧
         (u.arr a).streams = (s.arr a).streams.map (fun m => if m.id = op.id then { m with stopAt := some p.p } else m)))

/-- R241, R242: the checksum of a blaze is the sum and the sum of sums of the words modulo 65,535. R216, R239 to R247: a TLD or TST that
has made its last cycle retires. A sealed TLD whose checksum and parity agree clears the tile's poison, and one that does not takes
BLAZE and poisons it; a TLD.U with a failing word takes PARITY_LM; a TST writes its blaze; a TST stopped by a failing tile word takes
PARITY_REG; a TZERO clears poison. Log entries 23 and 56 name what here is the model's own reading or choice. -/
def Obligations.TileBlazesAndRetirement : Prop :=
  (∀ (ws : List Word),
     let c := ws.foldl fletcher (0, 0)
     c.1 = (ws.map (·.toNat)).sum % 65535 ∧
     c.2 = ((List.range (ws.length + 1)).map (fun k => ((ws.take k).map (·.toNat)).sum)).sum % 65535) ∧
  (∀ (s : State) (x : EngNo) (o : TileOp) (op : LongOp), s.flows = true → (s.engQ x.val).head? = some o → o.finished = true →
     (s.thr o.tid).ops.find? (fun q => q.id = o.id) = some op → s.freeToFail o.tid o.id = true →
     let sum : Word × Word := (wd o.c0, wd o.c1)
     let clean (r : Out) (poison : Bool) (slot : Bool) : Prop := ∃ u, r = .next u ∧ u.thr o.tid = (s.thr o.tid).retired s.cycle op [] ∧
       u.poisoned o.tile = poison ∧ u.tiles = s.tiles ∧ u.mem = (if slot then s.msetList o.slot [wd o.c0, wd o.c1] else s).mem
     let fails (r : Out) (it : Item) (poison : Bool) : Prop := ∃ u, r = .next u ∧
       u.thr o.tid = { s.thr o.tid with compl := some it }.retired s.cycle op [] ∧
       u.poisoned o.tile = poison ∧ u.mem = s.mem ∧ u.tiles = s.tiles
     (o.kind = .tld →
       let par := o.badSlot || o.badAt.isSome
       let dif := o.mismatch || decide (o.slotVal ≠ sum)
       (par = false → dif = false → clean (exec (.tldRetire x) s) false false) ∧
       (par || dif = true → fails (exec (.tldRetire x) s)
         (item 0x12 (BitVec.ofNat 8 (o.bzi + (if par then 64 else 0) + (if dif then 128 else 0))) o.pc (wd o.base)) true)) ∧
     (o.kind = .tldU →
       (o.badAt = none → clean (exec (.tldURetire x) s) false false) ∧
       (∀ b, o.badAt = some b → fails (exec (.tldURetire x) s) (item 0x05 0x04 o.pc (wd b)) true)) ∧
     (o.kind = .tst →
       (o.badAt = none → clean (exec (.tstRetire x) s) (s.poisoned o.tile) true) ∧
       (∀ i, o.badAt = some i →
         fails (exec (.tstRetire x) s) (item 0x06 (BitVec.ofNat 8 (0x70 + o.lt)) o.pc (wd i)) (s.poisoned o.tile))) ∧
     (o.kind = .tstU →
       (o.badAt = none → clean (exec (.tstURetire x) s) (s.poisoned o.tile) false) ∧
       (∀ i, o.badAt = some i →
         fails (exec (.tstURetire x) s) (item 0x06 (BitVec.ofNat 8 (0x70 + o.lt)) o.pc (wd i)) (s.poisoned o.tile))) ∧
     (o.kind = .tzero → clean (exec (.tzeroRetire x) s) false false))

/-! ## Matrix instructions at issue -/

/-- R218, R267, R272, R282, R284, R285, R290, R291: MSTAT makes its checks in the order of R290, waits where its thread has 4 pending
matrix instructions, parks for an array that is not ready, and is handed off otherwise; its thread then owns the slot. R282, R290,
R304: MTAB makes its checks in the order of R290 and is handed off; its thread then owns the slot's table. Log entry 24 names what here
is the model's own reading or choice. -/
def Obligations.StationaryIssue : Prop :=
  (∀ (s : State) (t : Tid) (a : ArrNo) (tn : LTile) (shape : BitVec 3) (p : BitVec 2), shape.toNat ≠ 7 →
     s.clear t { words := 2, uses := [0x0F + tn.val / 4], long := true } = true →
     let th := s.thr t
     let sh := shape.toNat
     let w := th.shape tn.val
     let ty := shType w
     let kl := if sh = 4 then 2 * (shElems w + 1) else shElems w + 1
     (s.fetches t (.mstat t a tn shape p) = true → exec (.mstat t a tn shape p) s =
       if (sh ≤ 4 ∧ 0 < p.toNat) ∨ (sh = 5 ∧ 1 < p.toNat) then s.faulted t 0x10 0x38 0 2
       else if (s.arr a).felled then s.faulted t 0x14 (BitVec.ofNat 8 a.val) 0 2
       else if tileOwner s.cfg (th.phys tn.val) ≠ some t.val then s.faulted t 0x16 (BitVec.ofNat 8 tn.val) 0 2
       else if ty = .int32 then s.faulted t 0x10 0x30 0 2
       else if hasShare s.cfg a t p.toNat = false then s.faulted t 0x15 0x06 0 2
       else if modePermits (shareMode s.cfg a) sh = false then s.faulted t 0x10 0x35 0 2
       else if kLimit sh ty < kl then s.faulted t 0x10 0x33 0 2
       else if shRows w + 1 ≠ shpIn sh then s.faulted t 0x10 0x39 0 2
       else if s.poisoned (th.phys tn.val) then s.faulted t 0x12 (BitVec.ofNat 8 tn.val) 0 2
       else if 4 ≤ th.matrixPending then s.waits t (.mstat t a tn shape p) 2
       else if bit s.ready (6 + a.val) = false then s.parksFor t a (.mstat t a tn shape p) 2
       else .next (s.loaded t a p.toNat (.tile (th.phys tn.val) tn.val w) sh ty kl true (s.arr a).tabs))) ∧
  (∀ (s : State) (t : Tid) (a : ArrNo) (tn : LTile) (p : BitVec 2),
     s.clear t { words := 2, uses := [0x0F + tn.val / 4], long := true } = true →
     let th := s.thr t
     let mode := shareMode s.cfg a
     let w := th.shape tn.val
     let ty := shType w
     (s.fetches t (.mtab t a tn p) = true → exec (.mtab t a tn p) s =
       if (mode = 0 ∧ 0 < p.toNat) ∨ (mode = 1 ∧ 1 < p.toNat) then s.faulted t 0x10 0x38 0 2
       else if (s.arr a).felled then s.faulted t 0x14 (BitVec.ofNat 8 a.val) 0 2
       else if tileOwner s.cfg (th.phys tn.val) ≠ some t.val then s.faulted t 0x16 (BitVec.ofNat 8 tn.val) 0 2
       else if hasShare s.cfg a t p.toNat = false then s.faulted t 0x15 0x06 0 2
       else if (ty ≠ .fp16 ∧ ty ≠ .bf16) ∨ shElems w < 15 then s.faulted t 0x10 0x3C 0 2
       else if s.poisoned (th.phys tn.val) then s.faulted t 0x12 (BitVec.ofNat 8 tn.val) 0 2
       else if 4 ≤ th.matrixPending then s.waits t (.mtab t a tn p) 2
       else if bit s.ready (6 + a.val) = false then s.parksFor t a (.mtab t a tn p) 2
       else .next (s.loaded t a p.toNat (.table (th.phys tn.val) tn.val w) 0 ty 16 false
         (Tab.put (s.arr a).tabs p.toNat { Tab.get ⟨none, .fp16, [], none⟩ (s.arr a).tabs p.toNat with owner := some t.val, ty := ty }))))

/-- R50, R282, R290, R293 to R297: MSTAT.C reads its descriptor, makes its checks in the order of R290, and is handed off; its thread then
owns the slot. Log entry 24 names what here is the model's own reading or choice. -/
def Obligations.MstatCIssue : Prop :=
  ∀ (s : State) (t : Tid) (a : ArrNo) (rs : Reg) (shape : BitVec 3) (p : BitVec 2) (kcntM1 : BitVec 7), shape.toNat ≠ 7 →
    s.clear t { words := 2, reads := [rs.val], long := true } = true →
    let th := s.thr t
    let sh := shape.toNat
    let kl := kcntM1.toNat + 1
    let addr := th.reg rs.val
    let d := s.descAt addr 8
    let v := Conv.of d
    let i : Instr := .mstatC t a rs shape p kcntM1
    let s' := s.modThr t (fun th => { th with slotNo := th.slotNo + 4 })
    s.fetches t i = true →
    (addr.toNat % 2 = 1 → exec i s = s.faulted t 0x04 0 addr 2) ∧
    (s.descOk t addr 8 = true → exec i s =
      if (sh ≤ 4 ∧ 0 < p.toNat) ∨ (sh = 5 ∧ 1 < p.toNat) then s'.faulted t 0x10 0x38 0 2
      else if (d.getD 2 0).toNat / 2 ^ 13 ≠ 0 then s'.faulted t 0x10 0x38 (addr + 2) 2
      else if (d.getD 4 0).toNat / 2 ^ 14 ≠ 0 then s'.faulted t 0x10 0x38 (addr + 4) 2
      else if v.kh * v.kw * v.c < v.kstart + kl then s'.faulted t 0x10 0x38 (addr + 7) 2
      else if (s.arr a).felled then s'.faulted t 0x14 (BitVec.ofNat 8 a.val) 0 2
      else if v.ty = .int32 then s'.faulted t 0x10 0x30 0 2
      else if hasShare s.cfg a t p.toNat = false then s'.faulted t 0x15 0x06 0 2
      else if modePermits (shareMode s.cfg a) sh = false then s'.faulted t 0x10 0x35 0 2
      else if kLimit sh v.ty < kl then s'.faulted t 0x10 0x33 0 2
      else if sh = 4 then s'.faulted t 0x10 0x37 0 2
      else match (v.span (shpIn sh) kl).bind (fun r => rangeCheck s.cfg th.wt r.1 r.2 [.r]) with
        | some (aux, f) => s'.faulted t 0x03 (BitVec.ofNat 8 aux) (wd f) 2
        | none =>
          if 4 ≤ th.matrixPending then s'.waits t i 2 (some d)
          else if bit s.ready (6 + a.val) = false then s'.parksFor t a i 2 (some d)
          else .next (s'.loaded t a p.toNat (.gather d) sh v.ty kl true (s.arr a).tabs))

/-- R50, R197, R264, R265, R267, R272, R284, R290, R298, R302, R303, R307: an MSTREAM whose descriptor and checks pass hands off all of its
passes together, in order and waiting to start, advances MSEED, and opens, continues or closes the chain of its slot as START and END
say. With MROW.RES = 1 it sets MROW to 0 and hands off passes IDX to NPM1; an IDX above NPM1 or a POS other than 0 takes TILE_SHAPE
with AUX 0x3D. Log entries 24 and 41 name what here is the model's own reading or choice. -/
def Obligations.MstreamHandOff : Prop :=
  ∀ (s : State) (t : Tid) (a : ArrNo) (rs : Reg) (r : StatRec),
    s.clear t { reads := [rs.val], uses := [0x2A, 0x28, 0x29, 0x12, 0x13], long := true } = true →
    let th := s.thr t
    let d := s.descAt (th.reg rs.val) 16
    let slot := dsProb d
    let sh := dsShape d
    let single := dsStart d && dsEnd d
    let tns := (if dsWsrc d then [dsWtile d] else []) ++ (if dsEnd d ∧ dsOkind d ≠ 0 then [dsOtile d] else [])
    let idx := if th.mres then th.mrow0.toNat else 0
    let stale := th.mres = true ∧ (dsNpm1 d < idx ∨ th.mrow1.toNat % 32768 ≠ 0)
    s.descOk t (th.reg rs.val) 16 = true → fieldBad d = none → s.fetches t (.mstream t a rs) = true →
    (stale → exec (.mstream t a rs) s = (s.modThr t (fun th => { th with slotNo := th.slotNo + 8 })).faulted t 0x10 0x3D 0) ∧
    (¬ stale → (s.arr a).felled = false →
    (∀ tn ∈ tns, parOk (th.useP (0x0F + tn / 4)) = true ∧ tileOwner s.cfg (th.phys tn) = some t.val ∧
      s.poisoned (th.phys tn) = false) →
    pairBad0 d = false → hasShare s.cfg a t slot = true → modePermits (shareMode s.cfg a) sh = true →
    Tab.find (s.arr a).recs slot = some r → r.owner = t.val → pairBad r.ty d = false → r.shape = sh → dsK d ≤ r.kl →
    dsK d ≤ kLimit sh r.ty → (sh = 4 → dsK d % 2 = 0) →
    (single = true ∨ (chainHolder s.cfg a slot = some t.val ∧
      (if dsStart d then (Tab.find (s.arr a).chains slot).isNone else (Tab.find (s.arr a).chains slot).isSome) = true)) →
    (dsExp d = 1 → ∃ x, Tab.find (s.arr a).tabs slot = some x ∧ x.owner = some t.val ∧ x.ty = r.ty) →
    (dsWsrc d = true → weightTileBad d (th.shape (dsWtile d)) = false ∧ sh < 5) →
    (dsEnd d = true → dsOkind d ≠ 0 → destTileBad d (th.shape (dsOtile d)) = false) →
    (dsExp d = 2 → r.ty.isNarrow = true → dsK d ≤ 32) →
    (∀ q ∈ streamRanges d idx, rangeCheck s.cfg th.wt q.1 q.2.1 [q.2.2] = none) →
    th.matrixPending < 4 → bit s.ready (6 + a.val) = true →
    ∃ u, exec (.mstream t a rs) s = .next u ∧
      u.thr t = ((({ (if th.mres then th.setMrow 0 0 else th) with slotNo := th.slotNo + 8 }.setCtl 0x28 (lo32 (seedNext th.mseed))).setCtl
        0x29 (hi32 (seedNext th.mseed))).handed s.nextId 4 [] [] false 1) ∧
      (u.arr a).passes.take (s.arr a).passes.length = (s.arr a).passes ∧
      ((u.arr a).passes.drop (s.arr a).passes.length).map (fun q => (q.sid, q.tid, q.slot, q.p, q.desc, q.inChain, q.phase)) =
        (List.range (dsNpm1 d + 1 - idx)).map (fun k => (s.nextId, t.val, slot, idx + k, d, !single, PassPhase.waiting)) ∧
      (u.arr a).streams = (s.arr a).streams ++ [⟨s.nextId, t, th.pc, slot, d, th.mseed, Counts.zero, none, none, false⟩] ∧
      Tab.find (u.arr a).chains slot =
        (if single then Tab.find (s.arr a).chains slot
         else if dsEnd d then none
         else if dsStart d then some ⟨s.nextId, t, th.pc⟩ else Tab.find (s.arr a).chains slot) ∧
      u.mem = s.mem ∧ u.tiles = s.tiles)

/-! ## The arrays at work -/

/-- R97, R268, R269, R287, R292, R296, R304, R306: RUN_READ reads the next run of a gather, FILL_STEP writes the next column of the slot
whose turn it is, MSTAT_RETIRE writes the tallies and retires the load, and TABLE_WRITE writes the 16 entries of the slot's table and
retires the MTAB. Log entries 25, 27 and 56 name what here is the model's own reading or choice. -/
def Obligations.StationaryLoads : Prop :=
  ∀ (s : State) (a : ArrNo) (p : Slot) (j : Job) (op : LongOp), s.flows = true →
    let x := s.arr a
    let others := x.jobs.filter (fun q => q.id ≠ j.id)
    let frame (u : State) : Prop := u.mem = s.mem ∧ u.tiles = s.tiles ∧ (u.arr a).passes = x.passes
    (∀ d i addr n px, x.jobs.find? (fun j => decide (j.slot = p.val) && !j.done && j.nextRun.isSome) = some j → j.kind = .gather d →
      j.nextRun = some (i, addr, n) →
      let v := Conv.of d
      let r := i % shpIn j.shape
      let tap := (v.taps j.kl).getD (i / shpIn j.shape) (0, 0, 0)
      v.kstart ≤ tap.1 * v.c + tap.2.1 → v.pixel r tap.1 = some px → s.memFind addr n = none →
      ∃ u j', exec (.runRead a p) s = .next u ∧ frame u ∧ (u.arr a).jobs = x.jobs.map (fun q => if q.id = j.id then j' else q) ∧
        j'.run = i + 1 ∧ j'.next = j.next ∧ j'.find = j.find ∧
        ∀ o, o ≤ tap.2.2 - tap.2.1 → Tab.get 0 j'.got (128 * r + (tap.1 * v.c + tap.2.1 + o - v.kstart)) =
          v.ty.extract (fun w => (s.mget (px + w)).d) (tap.2.1 + o)) ∧
    (x.fillPtr = j.slot → j.slot < 4 →
      x.jobs.find? (fun q => decide (q.slot = j.slot) && !q.done && !q.isTable) = some j → x.frontFree j j.next = true →
      j.gathered j.next = true → (∀ r < shpIn j.shape, (s.jobElem j r j.next).2 = none) → j.find = none →
      ∃ u j', exec (.fillStep a) s = .next u ∧ frame u ∧ (u.arr a).jobs = x.jobs.map (fun q => if q.id = j.id then j' else q) ∧
        j'.next = j.next + 1 ∧ j'.done = decide (j.cols ≤ j.next + 1) ∧ j'.find = none ∧ (u.arr a).fillPtr = (j.slot + 1) % 4 ∧
        Tab.find (u.arr a).voidCol (128 * j.slot + j.next) = none ∧
        ∀ r < shpIn j.shape,
          let e := (inVal j.ty (s.jobElem j r j.next).1).1
          let at_ (part : Nat) : FV :=
            Tab.get .zero (u.arr a).store (storeKey j.shape j.slot (inStore j.shape j.slot r) j.next part j.ty)
          (j.ty ≠ .fp32 → at_ 0 = e) ∧ (j.ty = .fp32 → at_ 0 = (split32 e).1 ∧ at_ 1 = (split32 e).2.1)) ∧
    (x.jobs.find? (fun j => decide (j.slot = p.val) && j.done && !j.isTable) = some j →
      (s.thr j.tid).ops.find? (fun q => q.id = j.id) = some op →
      (j.find = none → exec (.mstatRetire a p) s = .next ((s.modArr a (fun x => { x with jobs := others })).modThr j.tid (fun th =>
        (th.setTallies s.cycle j.id j.cnt).retired s.cycle op []))) ∧
      (∀ f, j.find = some f → s.freeToFail j.tid j.id = true →
        ∃ u, exec (.mstatRetire a p) s = .next u ∧ frame u ∧ (u.arr a).jobs = others ∧
          (u.thr j.tid).compl = some (item f.code f.aux j.pc f.faddr) ∧
            (u.thr j.tid).ops = (s.thr j.tid).ops.filter (fun q => q.id ≠ j.id))) ∧
    (∀ phys lt w, x.jobs.find? (fun j => decide (j.slot = p.val) && j.isTable) = some j → j.kind = .table phys lt w →
      j.voided = false →
      (∀ q ∈ x.passes, q.slot = p.val → q.sid < j.id → q.phase ≠ .waiting ∧ q.phase ≠ .streaming) →
      (s.thr j.tid).ops.find? (fun q => q.id = j.id) = some op → (∀ i < 16, parOk (s.tget phys i) = true) →
      ∃ u t, exec (.tableWrite a p) s = .next u ∧ frame u ∧ (u.arr a).jobs = others ∧ Tab.find (u.arr a).tabs p.val = some t ∧
        t.entries = (List.range 16).map (fun i => (s.tget phys i).d) ∧ t.void = none ∧
        u.thr j.tid = ((s.thr j.tid).setTallies s.cycle j.id j.cnt).retired s.cycle op [])

/-- R181, R182, R184, R257, R261, R264, R278: PASS_START starts the first waiting pass of the thread whose entry has its turn, in a buffer
whose accumulators are cleared when the pass has START, and moves the turn on. WEIGHT_STEP applies one weight row: each cell of the
region adds the product of its stationary element and its weight, saturating in the integer path and with FP32 roundings else. Log
entries 26 and 27 name what here is the model's own reading or choice. -/
def Obligations.PassesRun : Prop :=
  ∀ (s : State) (a : ArrNo) (p : Slot) (q : Pass), s.runs = true →
    let x := s.arr a
    let d := q.desc
    let es := slotEntries s.cfg a p.val
    let frame (u : State) : Prop := u.mem = s.mem ∧ u.tiles = s.tiles ∧ u.threads = s.threads
    (∀ e b, x.testing = none → x.felled = false → es.find? (fun e => decide (Tab.get 0 x.ptr p.val ≤ e)) = some e →
      x.passes.find? (fun q => decide (q.slot = p.val) && decide (q.tid = entTid s.cfg a e) && decide (q.phase = .waiting)) = some q →
      x.readyPass q = true → x.startBuf q = some b →
      ∃ u, exec (.passStart a p) s = .next u ∧ frame u ∧
        (u.arr a).passes = x.passes.filter (fun r => r.id ≠ q.id) ++
          [{ q with
            phase := .streaming, buf := b, sub := 0, k := 0, lanes := laneSeeds q.seed q.p, shadow := laneSeeds q.seed q.p,
            expd := decide (dsExp d ≠ 0) || (!dsStart d && ((Tab.find x.chainBufs p.val).map (·.expd)).getD false) }] ∧
        (u.arr a).passCount = x.passCount + 1 ∧
        Tab.get 0 (u.arr a).ptr p.val = ((es.filter (fun i => decide (e < i))).head?).getD 0 ∧
        (dsStart d = true → ∀ i ∈ regRows (dsShape d) q.slot, ∀ j ∈ regCols (dsShape d) q.slot,
          Tab.get 0 (u.arr a).acc (128 * b + 16 * i + j) = 0 ∧ Tab.get false (u.arr a).sat (128 * b + 16 * i + j) = false) ∧
        (dsStart d = false → (u.arr a).acc = x.acc ∧ (u.arr a).sat = x.sat)) ∧
    (let tab := Tab.get ⟨none, .fp16, [], none⟩ x.tabs p.val
     let ops (r : Nat) : List FV := (q.weights tab.entries r (s.weightWords q r).1).1
     x.passes.find? (fun q => decide (q.slot = p.val) && decide (q.phase = .streaming)) = some q →
      (∀ r ∈ x.passes, r.orphan = false) → (∀ j ∈ x.jobs, j.slot = p.val → q.sid < j.id ∨ j.done = true) →
      Tab.find x.voidCol (128 * p.val + q.k) = none → (dsExp d = 1 → tab.void = none) → q.newBlocks q.k = [] →
      (dsWsrc d = true → q.newBlocks (q.k + 1) = []) → (∀ r ∈ q.stepRows q.k, (s.weightWords q r).2 = none) →
      ∃ u, exec (.weightStep a p) s = .next u ∧ frame u ∧
        (u.arr a).passes = x.passes.map (fun r => if r.id = q.id then
          if q.k + 1 < dsSteps d then { q with k := q.k + 1 }
          else if q.sub + 1 < dsMp d then { q with k := 0, sub := q.sub + 1 }
          else if dsEnd d then { q with phase := .draining, row := 0 }
          else { q with phase := .done } else r) ∧
        ∀ i ∈ regRows (dsShape d) p.val, ∀ j ∈ regCols (dsShape d) p.val,
          let old := Tab.get 0 x.acc (128 * q.buf + 16 * i + j)
          let y := Tab.get .zero x.store (storeKey (dsShape d) p.val (cellStore (dsShape d) i) q.k q.part q.stype)
          let w := (ops (if cellHigh (dsShape d) i then dsK d / 2 + q.k else q.k)).getD (cellCol (dsShape d) i j) .zero
          Tab.get 0 (u.arr a).acc (128 * q.buf + 16 * i + j) =
            if q.stype.isNarrow then BitVec.ofInt 32 (min (max (old.toInt + y.int * w.int) (-2147483648)) 2147483647)
            else if (y.isZero = true ∧ w.isFin = true) ∨ (w.isZero = true ∧ y.isFin = true) then old
            else enc32 (rne32 (FV.add (dec32 old) (rne32 (FV.mul y w)))))

/-- R194, R199, R212, R261, R262, R287 to R289, R299, R305, R307, R324 to R327, R331: DRAIN_ROW_LEAVE converts a cell row and after the
last gives the pass its verdict's cycle. PASS_VERDICT takes the pass of the slot whose verdict comes first, lets one without a mismatch
write, and discards one with: of a chain it makes the chain void, with its items for the passes that it discards. DRAIN_WRITE writes
the next words of the oldest verdict's pass and no other word, and MSTREAM_RETIRE retires an MSTREAM all of whose passes are done and
sets its event of EVE = 1; one stopped under R307 leaves MROW at its first pass not started with RES = 1, MSEED as it was at issue, and
the PC at the MSTREAM. Log entries 25, 26, 27, 49, 56, 60 and 64 name what here is the model's own reading or choice. -/
def Obligations.PassesEnd : Prop :=
  ∀ (s : State) (a : ArrNo) (p : Slot) (q : Pass), s.flows = true →
    let x := s.arr a
    let d := q.desc
    let sh := dsShape d
    (∀ r ∈ x.passes, r.orphan = false) →
    let becomes (u : State) (q' : Pass) : Prop := (u.arr a).passes = x.passes.map (fun r => if r.id = q.id then q' else r)
    (x.passes.find? (fun q => decide (q.slot = p.val) && decide (q.phase = .draining)) = some q → sh ≠ 4 →
      (x.passes.filter (fun r => decide (r.slot = p.val) && (decide (r.phase = .verdict) || decide (r.phase = .writing)))).length < 2 →
      ∃ u q', exec (.drainRowLeave a p) s = .next u ∧ becomes u q' ∧ u.mem = s.mem ∧ u.tiles = s.tiles ∧ q'.row = q.row + 1 ∧
        (q.row + 1 < shpRc sh → q'.phase = .draining) ∧
        (q.row + 1 = shpRc sh → q'.phase = .verdict ∧ q'.vAt = s.cycle + shpR sh + shpC sh - shpRc sh) ∧
        (dsRmode d < 2 → ∀ j ∈ regCols sh p.val,
          let i := (regRows sh p.val).getD q.row 0
          let v : Word32 := Tab.get 0 x.acc (128 * q.buf + 16 * i + j)
          let scale : FV := if dsCscale d = 0 then .fin false 1 0 else dec32 (dsCscale d)
          let value : FV :=
            if q.stype.isNarrow then if (dsOty d).isFloat then rne32 (FV.mul (rne32 (.ofInt v.toInt)) scale) else .ofInt v.toInt
            else rne32 (FV.mul (dec32 v) scale)
          Tab.get 0 q'.out (128 * cellRow sh i + cellCol sh i j) =
            if dsOkind d = 2 then v.toNat
            else (convOut (dsOty d) (if dsRmode d = 1 then .rtz else .rne) (bit q.mchk 0) value).1)) ∧
    (∀ (ld ed : Bool) (before after : List Pass), x.passes = before ++ q :: after → q.slot = p.val → q.phase = .verdict →
      (∀ r ∈ before, r.slot = p.val → r.phase = .verdict → q.vAt < r.vAt) →
      (∀ r ∈ after, r.slot = p.val → r.phase = .verdict → q.vAt ≤ r.vAt) →
      let kind := if q.seen.col.isSome ∧ q.seen.row.isSome then 1 else if q.seen.col.isSome then 2 else if q.seen.row.isSome then 3
        else if ld ∨ q.differs then 4 else if ed ∧ q.expd then 5 else 0
      let aux (kind corner : Nat) : BitVec 8 := BitVec.ofNat 8 (kind + corner + 16 * a.val + 32 * q.slot)
      let corner : Nat := if q.seen.cornerOfFail then 8 else 0
      (kind = 0 → q.seen.corner = false → ∃ u, exec (.passVerdict a p ld ed) s = .next u ∧ becomes u { q with phase := .writing } ∧
        (u.arr a).writeQ = x.writeQ ++ [q.id] ∧ u.mem = s.mem ∧ u.threads = s.threads ∧ u.notices = s.notices ∧
        ∀ i < 4, Tab.get 0 u.tally (8 * a.val + i) = Tab.get 0 s.tally (8 * a.val + i)) ∧
      (∀ m, kind ≠ 0 → q.inChain = false → m ∈ x.streams → m.id = q.sid → m.fault = none →
        ∃ u, exec (.passVerdict a p ld ed) s = .next u ∧ u.mem = s.mem ∧ u.tiles = s.tiles ∧
          (x.lastMismatch = none →
            (u.arr a).felled = x.felled ∧ (u.arr a).lastMismatch = some (x.passCount, s.cycle, p.val) ∧
            (∀ r ∈ (u.arr a).passes, r.sid = q.sid → r.phase ≠ .waiting) ∧
            ∃ m' ∈ (u.arr a).streams, m'.id = q.sid ∧
              m'.fault = some (q.p, ⟨0x13, aux kind corner, q.pc, wd q.p, none, false, some (wd q.p, 0)⟩)) ∧
          (∀ n c sl, x.lastMismatch = some (n, c, sl) → (c = s.cycle → sl = p.val) → x.passCount - n < 2 ^ 20 →
            (u.arr a).felled = true ∧ bit u.ready (8 + a.val) = false)) ∧
      (∀ m, kind ≠ 0 → q.inChain = true → m ∈ x.streams → m.id = q.sid → m.fault = none → x.lastMismatch = none →
        let follows (r : Pass) : Prop := r.tid = q.tid ∧ r.slot = q.slot ∧ dsStart r.desc = false ∧ r.phase = .waiting
        ∃ u, exec (.passVerdict a p ld ed) s = .next u ∧ u.mem = s.mem ∧ u.tiles = s.tiles ∧
          (u.arr a).chains = x.chains.filter (fun e => e.2.id ≠ q.chain) ∧
          (u.arr a).chainBufs = x.chainBufs.filter (fun e => e.2.chain ≠ q.chain) ∧
          (∀ r ∈ (u.arr a).passes, ¬ follows r ∧ (r.sid = q.sid → r.phase ≠ .waiting)) ∧
          (∃ m' ∈ (u.arr a).streams, m'.id = q.sid ∧
            m'.fault = some (q.p, ⟨0x13, aux kind (corner + 128), q.pc, q.firstPc, some (q.pc + 1), false, some (0, 0)⟩)) ∧
          ∀ r m, r ∈ x.passes → follows r → r.inChain = true → r.sid ≠ q.sid → (∀ z ∈ x.passes, z.sid = r.sid → z = r) →
            m ∈ x.streams → m.id = r.sid → m.fault = none →
            ∃ m' ∈ (u.arr a).streams, m'.id = r.sid ∧
              m'.fault = some (r.p, ⟨0x13, aux 6 128, r.pc, r.firstPc, some (r.pc + 1), false, some (0, 0)⟩))) ∧
    (x.writeQ.head?.bind (fun id => x.passes.find? (fun q => q.id = id)) = some q →
      let lo := q.access.1
      let hi := q.access.2.1
      let ws := (dsOty d).pack (q.outRow q.wr)
      hi ≤ ws.length →
      (dsOkind d = 0 → q.memAt q.wr + hi ≤ 65536 → ∃ u, exec (.drainWrite a) s = .next u ∧ u.tiles = s.tiles ∧
        ∀ b < 65536, u.mget b = if q.memAt q.wr + lo ≤ b ∧
          b < q.memAt q.wr + hi then pw (ws.getD (b - q.memAt q.wr) 0) else s.mget b) ∧
      (dsOkind d = 1 → q.tileAt q.wr + hi ≤ 512 → ∃ u, exec (.drainWrite a) s = .next u ∧ u.mem = s.mem ∧
        ∀ t < 16, ∀ i < 512, u.tget t i =
          if t = q.otile ∧ q.tileAt q.wr + lo ≤ i ∧ i < q.tileAt q.wr + hi then pw (ws.getD (i - q.tileAt q.wr) 0) else s.tget t i)) ∧
    (∀ m op, x.streams.find? (fun m =>
        decide (m.slot = p.val) && x.passes.all (fun q => decide (q.sid ≠ m.id) || decide (q.phase = .done))) = some m →
      (s.thr m.tid).ops.find? (fun o => o.id = m.id) = some op →
      let gone (x : Arr) : Arr :=
        { x with streams := x.streams.filter (fun n => n.id ≠ m.id), passes := x.passes.filter (fun q => q.sid ≠ m.id) }
      let eve := bit (dsW m.desc 13) 4
      let event (th : Thread) : Thread := 
        if eve = true ∧ (s.thr m.tid).takesItems = true then th.setCtl 0x09 (th.ctlW 0x09 ||| wd (2 ^ ((dsW m.desc 13).toNat % 16))) else th
      (m.fault = none → m.stopAt = none → exec (.mstreamRetire a p) s =
        .next ((s.modArr a gone).modThr m.tid (fun th => (event (th.setTallies s.cycle m.id m.cnt)).retired s.cycle op []))) ∧
      (∀ k, m.fault = none → m.stopAt = some k → op.dests = [] → exec (.mstreamRetire a p) s =
        .next ((s.modArr a gone).modThr m.tid (fun th =>
          ((((th.setTallies s.cycle m.id m.cnt).retired s.cycle op []).setMrow k 0x8000).setMseed m.seed).setPc m.pc))) ∧
      (∀ f it, m.fault = some (f, it) → s.freeToFail m.tid m.id = true → ∃ u, exec (.mstreamRetire a p) s = .next u ∧
        u.arr a = gone x ∧
        (u.thr m.tid).compl = some it ∧ (u.thr m.tid).ops = (s.thr m.tid).ops.filter (fun o => o.id ≠ m.id) ∧
        (eve = true → bit ((u.thr m.tid).ctlW 0x09) ((dsW m.desc 13).toNat % 16) = true)))

/-! ## The row unit -/

/-- R190, R197, R218, R338, R339, R341, R345 to R347: a row-unit instruction makes its checks in their order: the first tile of TA, TB and
TD that is not mapped takes TILE_VIEW, shapes that do not fit TILE_SHAPE with the code of the first condition of R346, the first
poisoned tile BLAZE, and behind two of its thread it waits. Else it is handed off with the tiles, shapes, seed and SATF of its issue,
and MSEED advances. Log entry 28 names what here is the model's own reading or choice. -/
def Obligations.RowInstructionsIssue : Prop :=
  ∀ (s : State) (t : Tid) (td ta tb : LTile) (bc rm : BitVec 2),
    let th := s.thr t
    let sd := th.shape td.val
    let sa := th.shape ta.val
    let sb := th.shape tb.val
    let differs (w : Word) : Bool := decide (shRows w ≠ shRows sd) || decide (shElems w ≠ shElems sd)
    let small : Bool := (decide (bc = 1) && decide (shElems sb < shRows sd)) || (decide (bc = 2) && decide (shElems sb < shElems sd))
    let n := seedNext th.mseed
    let row (i : Instr) (op : Nat) (tb : LTile) (useB : Bool) (bc rm : Nat) (bad40 bad41 bad42 : Bool) : Prop :=
      let tns := [ta.val] ++ (if useB then [tb.val] else []) ++ [td.val]
      s.clear t { words := 2, uses := tns.map (fun tn => 0x0F + tn / 4) ++ [0x28, 0x29, 0x2A], long := true } = true →
        s.fetches t i = true →
      exec i s = (match tns.find? (fun tn => decide (tileOwner s.cfg (th.phys tn) ≠ some t.val)) with
        | some tn => s.faulted t 0x16 (BitVec.ofNat 8 tn) 0 2
        | none =>
          if bad40 then s.faulted t 0x10 0x40 0 2
          else if bad41 then s.faulted t 0x10 0x41 0 2
          else if bad42 then s.faulted t 0x10 0x42 0 2
          else match tns.find? (fun tn => s.poisoned (th.phys tn)) with
            | some tn => s.faulted t 0x12 (BitVec.ofNat 8 tn) 0 2
            | none =>
              if 2 ≤ (th.ops.filter (fun o => o.cls = 5)).length then s.waits t i 2
              else .next
                { (s.modThr t (fun th => (th.setCtl 0x28 (lo32 n)).setCtl 0x29 (hi32 n))).handed t 5 [] [] false 2 with
                  rowQ := s.rowQ ++ [⟨s.nextId, t, th.pc, op, th.phys td.val, th.phys ta.val, th.phys tb.val, td, ta, tb, sd, sa,
                    th.shape tb.val, bc, rm, th.mseed, bit (th.useW 0x2A) 0⟩] })
    let two (i : Instr) (op : Nat) : Prop := rm.toNat < 3 → row i op tb true bc.toNat rm.toNat
      (differs sa || (decide (bc = 0) && differs sb)) small false
    let one (i : Instr) (op : Nat) : Prop := rm.toNat < 3 → row i op ta false 0 rm.toNat (differs sa) false false
    let reduces (i : Instr) (op : Nat) : Prop :=
      rm.toNat < 3 → row i op ta false 0 rm.toNat (decide (shElems sd < shRows sa)) false false
    two (.vadd t td ta tb bc rm) 0 ∧ two (.vsub t td ta tb bc rm) 1 ∧ two (.vmul t td ta tb bc rm) 2 ∧ two (.vfma t td ta tb bc rm) 3 ∧
    two (.vmax t td ta tb bc rm) 4 ∧ two (.vmin t td ta tb bc rm) 5 ∧
    row (.vcmp t td ta tb bc rm) 6 tb true bc.toNat rm.toNat (differs sa || (decide (bc = 0) && differs sb)) small false ∧
    (rm.toNat < 3 → row (.vsel t td ta tb rm) 7 tb true 0 rm.toNat (differs sa || differs sb) false false) ∧
    one (.vcvt t td ta rm) 8 ∧ one (.vexp2 t td ta rm) 9 ∧ one (.vlog2 t td ta rm) 10 ∧ one (.vrcp t td ta rm) 11 ∧
      one (.vrsq t td ta rm) 12 ∧
    reduces (.vrsum t td ta rm) 13 ∧ reduces (.vrmax t td ta rm) 14 ∧
    (rm.toNat < 3 → bc.toNat = 1 ∨ bc.toNat = 2 → row (.vscale t td ta tb bc rm) 15 tb true bc.toNat rm.toNat
      (differs sa) small (decide (shType sb ≠ .fp32)))

/-- R195, R196, R198, R214, R339 to R343, R347 to R349, R352: ROW_START takes the oldest instruction of the first thread in rotation.
ROW_RETIRE writes the rows of TD in order, each element the value that R339 gives its operation, or for a reduction R343, converted to
TD's type under RM by its lane; where TD is a source too, a row is read after the rows before it were written. It changes no other tile
word, writes the tallies and retires the instruction; a failing word of TA's first row stops it with PARITY_REG. R344: the functions of
the row unit give the special values and the exact cases that their table lists, and VRCP and VRSQ a result within 1 unit of the last
place of the exact result's binade, whatever the free deviation of log entry 8 is. The bounds of VEXP2 and VLOG2 are not stated. Log
entries 8, 28, 56 and 60 name what here is the model's own reading or choice. -/
def Obligations.RowUnitWorks : Prop :=
  (∀ (s : State),
     (∀ i o, i < 64 → s.runs = true → s.rowCur = none → s.rowQ.find? (fun o => o.tid = (s.rowLast + 1 + i) % 64) = some o →
       (∀ j < i, s.rowQ.find? (fun o => o.tid = (s.rowLast + 1 + j) % 64) = none) →
       exec .rowStart s = .next { s with rowCur := some o, rowLast := o.tid, rowQ := s.rowQ.filter (fun q => q.id ≠ o.id) }) ∧
     (∀ o op, s.flows = true → s.rowCur = some o → (s.thr o.tid).ops.find? (fun q => q.id = o.id) = some op →
       let n := shElems o.sd + 1
       let rows := shRows o.sd + 1
       let wpr := shWpr o.sd
       let useB := decide (o.op < 8) || decide (o.op = 15)
       let useD := decide (o.op = 3) || decide (o.op = 7)
       let elem (tiles : Nat → Nat → ParWord) (tile : Nat) (w : Word) (r e : Nat) : FV :=
         (inVal (shType w) ((shType w).extract (fun i => (tiles tile (r * shWpr w + i)).d) e)).1
       let enters (w : Word) (v : FV) : FV := if shType w = .int32 then rne32 v else v
       let larger (a b : FV) : FV := if a.isNan ∨ b.isNan then .nan else if FV.cmp b a = some .gt then b else a
       let smaller (a b : FV) : FV := if a.isNan ∨ b.isNan then .nan else if FV.cmp b a = some .lt then b else a
       let holds (a b : FV) : Prop := match o.rm with
         | 0 => FV.cmp a b = some .eq
         | 1 => FV.cmp a b = some .lt
         | 2 => FV.cmp a b = some .lt ∨ FV.cmp a b = some .eq
         | _ => FV.cmp a b ≠ some .eq
       let value (a b d v : FV) : Prop :=
         let x := enters o.sa a
         let y := enters o.sb b
         let z := enters o.sd d
         match o.op with
         | 0 => v = rne32 (FV.add x y)
         | 1 => v = rne32 (FV.add x y.neg)
         | 2 => v = rne32 (FV.mul x y)
         | 3 => v = rne32 (FV.add (FV.mul x y) z)
         | 4 => v = larger x y
         | 5 => v = smaller x y
         | 6 => (holds x y → v = .fin false 1 0) ∧ (¬ holds x y → v = .fin false 0 0)
         | 7 => v = if d.isZero then b else a
         | 8 => v = a
         | 9 => v = vexp2 x
         | 10 => v = vlog2 x
         | 11 => v = vrcp x
         | 12 => v = vrsq x
         | _ => v = rne32 (FV.mul x y)
       let random (lane steps : Nat) : Nat := (lfsrN steps (laneSeed o.seed 0 lane)).toNat % 65536
       let bits (lane steps : Nat) (v : FV) : Nat :=
         let mode : RMode := if o.op = 6 ∨ o.rm = 0 then .rne else if o.rm = 1 then .rtz else .sr (random lane steps)
         (convOut (shType o.sd) mode o.satf v).1
       let sound (tile : Nat) (w : Word) (rows : Nat) : Prop := ∀ i < rows * shWpr w, parOk (s.tget tile i) = true
       let writes (tiles : Nat → Nat → ParWord) : Prop := ∃ u c, exec .rowRetire s = .next u ∧ u.mem = s.mem ∧ u.rowCur = none ∧
         u.rowQ = s.rowQ ∧ u.thr o.tid = ((s.thr o.tid).setTallies s.cycle o.id c).retired s.cycle op [] ∧
         ∀ t < 16, ∀ i < 512, u.tget t i = tiles t i
       (o.op ≠ 13 → o.op ≠ 14 → o.op < 16 → o.rm < 3 ∨ o.op = 6 → rows * wpr ≤ 512 → rows * shWpr o.sa ≤ 512 →
         (useB = true → rows * shWpr o.sb ≤ 512) → shElems o.sa = shElems o.sd → (useB = true → o.bc = 0 →
           shElems o.sb = shElems o.sd) →
         sound o.ta o.sa rows → (useB = true → sound o.tb o.sb (if o.bc = 0 then rows else 1)) →
         (useD = true → sound o.td o.sd rows) →
         ∀ (tiles : Nat → Nat → Nat → ParWord) (v : Nat → Nat → FV), tiles 0 = s.tget →
           (∀ r < rows, ∀ e < n,
             let b : FV := if useB = false then .zero else if o.bc = 0 then elem (tiles r) o.tb o.sb r e
               else elem s.tget o.tb o.sb 0 (if o.bc = 1 then r else if o.bc = 2 then e else 0)
             value (elem (tiles r) o.ta o.sa r e) b (if useD then elem (tiles r) o.td o.sd r e else .zero) (v r e)) →
           (∀ r < rows, tiles (r + 1) = fun t i => if t = o.td ∧ r * wpr ≤ i ∧ i < (r + 1) * wpr then
             pw (((shType o.sd).pack ((List.range n).map (fun e =>
               bits (e % 16) (r * ((n - 1 - e % 16) / 16 + 1) + e / 16 + 1) (v r e)))).getD (i - r * wpr) 0) else tiles r t i) →
           writes (tiles rows)) ∧
       (o.op = 13 ∨ o.op = 14 → o.rm < 3 → wpr ≤ 512 → shRows o.sa + 1 ≤ n → (shRows o.sa + 1) * shWpr o.sa ≤ 512 →
         sound o.ta o.sa (shRows o.sa + 1) →
         writes (fun t i => if t = o.td ∧ i < wpr then
           pw (((shType o.sd).pack ((List.range (shRows o.sa + 1)).map (fun r => bits (r % 16) (r / 16 + 1)
             (rowReduce (if o.op = 13 then fun x y => rne32 (FV.add x y) else larger)
               ((List.range (shElems o.sa + 1)).map (fun e => enters o.sa (elem s.tget o.ta o.sa r e))))) ++
             List.replicate (n - (shRows o.sa + 1)) 0)).getD i 0) else s.tget t i)) ∧
       (∀ k, (List.range (shWpr o.sa)).find? (fun i => !parOk (s.tget o.ta i)) = some k → s.freeToFail o.tid o.id = true →
         ∃ u, exec .rowRetire s = .next u ∧ u.tiles = s.tiles ∧ u.mem = s.mem ∧ u.poisoned o.ta = true ∧ u.rowCur = none ∧
           (u.thr o.tid).compl = some (item 0x06 (BitVec.ofNat 8 (0x70 + o.lta)) o.pc (wd k))))) ∧
  (∀ (neg : Bool) (m k : Nat) (e n : Int),
     let value (m : Nat) (e : Int) : Rat := (m : Rat) * (2 : Rat) ^ e
     let signed : Rat := if neg then - value m e else value m e
     (vexp2 .nan = .nan ∧ vexp2 (.inf false) = .inf false ∧ vexp2 (.inf true) = .fin false 0 0 ∧
       (-126 ≤ n → n ≤ 127 → signed = (n : Rat) → vexp2 (.fin neg m e) = .fin false 1 n) ∧
       (128 ≤ signed → vexp2 (.fin neg m e) = .inf false) ∧ (signed ≤ -127 → vexp2 (.fin neg m e) = .fin false 0 0)) ∧
     (vlog2 .nan = .nan ∧ vlog2 (.inf false) = .inf false ∧ vlog2 (.inf true) = .nan ∧ vlog2 (.fin neg 0 e) = .inf true ∧
       (0 < m → vlog2 (.fin true m e) = .nan) ∧ vlog2 (.fin false (2 ^ k) e) = .ofInt (k + e)) ∧
     (vrcp .nan = .nan ∧ vrcp (.inf neg) = .fin neg 0 0 ∧ vrcp (.fin neg 0 e) = .inf neg ∧
       (-126 ≤ -(k + e) → -(k + e) ≤ 127 → vrcp (.fin neg (2 ^ k) e) = .fin neg 1 (-(k + e))) ∧
       (0 < m → m < 2 ^ 24 →
         ((2 : Rat) ^ (126 : Int) < value m e → vrcp (.fin neg m e) = .fin neg 0 0) ∧
         (-126 ≤ n → n ≤ 126 → value m e * (2 : Rat) ^ n ≤ 1 → 1 < value m e * (2 : Rat) ^ (n + 1) →
           ∃ m' e', vrcp (.fin neg m e) = .fin neg m' e' ∧ 1 ≤ value m e * (value m' e' + (2 : Rat) ^ (n - 23)) ∧
             value m e * (value m' e' - (2 : Rat) ^ (n - 23)) ≤ 1))) ∧
     (vrsq .nan = .nan ∧ vrsq (.inf false) = .fin false 0 0 ∧ vrsq (.inf true) = .nan ∧ vrsq (.fin neg 0 e) = .inf neg ∧
       (0 < m → vrsq (.fin true m e) = .nan) ∧ ((k + e) % 2 = 0 → vrsq (.fin false (2 ^ k) e) = .fin false 1 (-((k + e) / 2))) ∧
       (0 < m → m < 2 ^ 24 → -126 ≤ n → n ≤ 126 →
         value m e * ((2 : Rat) ^ n * (2 : Rat) ^ n) ≤ 1 → 1 < value m e * ((2 : Rat) ^ (n + 1) * (2 : Rat) ^ (n + 1)) →
         ∃ m' e', vrsq (.fin false m e) = .fin false m' e' ∧
           1 ≤ value m e * ((value m' e' + (2 : Rat) ^ (n - 23)) * (value m' e' + (2 : Rat) ^ (n - 23))) ∧
           ((2 : Rat) ^ (n - 23) < value m' e' →
             value m e * ((value m' e' - (2 : Rat) ^ (n - 23)) * (value m' e' - (2 : Rat) ^ (n - 23))) ≤ 1))))

/-! ## Flumes -/

/-- R359, R361, R362, R363, R368, R379: SEND.W appends Ln to the landing and reserves a credit when there is one; SEND.E sends the landing
as one message once a credit is reserved and there is room, and parks before; SENDC does the same or writes 0 to rd. The first failed
check of R359 takes its fault. A landing discarded as its end left OPEN is no empty landing (log entry 47). Log entries 16 and 47 name
what here is the model's own reading or choice. -/
def Obligations.FlumeSends : Prop :=
  ∀ (s : State) (t : Tid) (e : EndNo) (ln : Reg3) (rd : Reg),
    let x := s.fend e.val
    let w := (s.thr t).reg (8 + ln.val)
    let aux : BitVec 8 := BitVec.ofNat 8 e.val
    let mine := x.st ≠ .unbound ∧ endOwner s.cfg e.val = t ∧ endDir s.cfg e.val = true
    let checks (i : Instr) (n : Nat) : Prop := s.fetches t i = true →
      (x.st = .unbound → exec i s = s.faulted t 0x22 0x01 0 n) ∧
      (x.st ≠ .unbound → endOwner s.cfg e.val ≠ t → exec i s = s.faulted t 0x23 aux 0 n) ∧
      (x.st ≠ .unbound → endOwner s.cfg e.val = t → endDir s.cfg e.val = false → exec i s = s.faulted t 0x22 0x02 0 n)
    let sent : State := { s.setEnd e.val { x with seq := x.seq + 1, landing := [], resv := false } with
      flumeOut := s.flumeOut ++ [⟨0, endPeer s.cfg e.val, s.ident,
        [wd (endPend s.cfg e.val + 32 * e.val + 4096 * (x.landing.length - 1)), x.seq + 1] ++ x.landing⟩] }
    (s.clear t { reads := [8 + ln.val] } = true →
      checks (.sendW t e ln) 1 ∧
      (mine → s.fetches t (.sendW t e ln) = true →
        (x.landing.length = endMaxlen s.cfg e.val + 1 → exec (.sendW t e ln) s = s.faulted t 0x22 0x04 0) ∧
        (x.landing.length ≠ endMaxlen s.cfg e.val + 1 → x.st ≠ .opened → exec (.sendW t e ln) s = s.faulted t 0x20 aux 0) ∧
        (x.landing.length ≠ endMaxlen s.cfg e.val + 1 → x.st = .opened → exec (.sendW t e ln) s = .next ((s.setEnd e.val
          { x with landing := x.landing ++ [w], credit := if x.resv then x.credit else x.credit - 1,
                   resv := x.resv || decide (0 < x.credit) }).modThr t (fun th => th.advance 1))))) ∧
    (s.clear t {} = true →
      checks (.sendE t e) 1 ∧
      (mine → s.fetches t (.sendE t e) = true →
        (x.landing = [] → x.lost = false → exec (.sendE t e) s = s.faulted t 0x22 0x05 0) ∧
        (x.landing ≠ [] ∨ x.lost = true → x.st ≠ .opened → exec (.sendE t e) s = s.faulted t 0x20 aux 0) ∧
        (x.landing ≠ [] → x.st = .opened →
          (x.resv = false → exec (.sendE t e) s =
            .next ((s.setEnd e.val { x with stall := 0 }).modThr t (fun th => th.parked (.sendE e.val) (.sendE t e) 1))) ∧
          (x.resv = true → s.flumeOut.length < 8 → exec (.sendE t e) s = .next (sent.modThr t (fun th => th.advance 1))) ∧
          (x.resv = true → 8 ≤ s.flumeOut.length → exec (.sendE t e) s = s.waits t (.sendE t e) 1)))) ∧
    (s.clear t { words := 2, writes := [rd.val] } = true →
      checks (.sendC t rd e) 2 ∧
      (mine → s.fetches t (.sendC t rd e) = true →
        (x.landing = [] → x.lost = false → exec (.sendC t rd e) s = s.faulted t 0x22 0x05 0 2) ∧
        (x.landing ≠ [] → x.st = .opened → x.resv = true → s.flumeOut.length < 8 →
          exec (.sendC t rd e) s = .next (sent.modThr t (fun th => th.wrote [(rd.val, 1)] 2))) ∧
        (x.landing ≠ [] → x.st = .opened → x.resv = true → 8 ≤ s.flumeOut.length →
          exec (.sendC t rd e) s = s.waits t (.sendC t rd e) 2) ∧
        (x.landing ≠ [] ∨ x.lost = true → x.st ≠ .opened ∨ x.resv = false → exec (.sendC t rd e) s = s.did t [(rd.val, 0)] 2)))

/-- R58, R359, R363, R364, R365, R367, R373, R374: RECV, RECVC and FDONE make the checks of R359 in their order. RECV and RECVC take the
oldest message of a ring end and write its slot address, or the landed tile and write its row count; a slot held before is freed first.
FDONE frees the held slot or tile. Freed slots return as a CREDIT when 4 are unreturned or at most half are in use, a freed tile
returns all its rows. With nothing to take RECV parks, takes FLUME_CLOSED where nothing will come, and RECVC writes 0 to rd alone. With
4 results pending RECV waits at issue. Log entries 13, 16 and 47 name what here is the model's own reading or choice. -/
def Obligations.FlumeReceives : Prop :=
  ∀ (s : State) (t : Tid) (e : EndNo) (rd : Reg),
    let x := s.fend e.val
    let c := endSlots s.cfg e.val + 1
    let aux : BitVec 8 := BitVec.ofNat 8 e.val
    let tile := endTile s.cfg e.val
    let credit (n : Nat) : Packet := ⟨1, endPeer s.cfg e.val, s.ident, [wd (endPend s.cfg e.val + 32 * e.val), wd n]⟩
    let y : FEnd := { x with held := none, credit := x.credit - 1, u := x.u + 1 }
    let gives := decide (y.u = 4) || decide (y.credit ≤ c / 2)
    let freed : FEnd := if x.held = none then x else if gives then { y with u := 0 } else y
    let out : List Packet := if x.held = none then [] else if gives then [credit y.u] else []
    let with_ (z : FEnd) (l : List Packet) (f : Thread → Thread) : Out :=
      .next ({ s.setEnd e.val z with flumeOut := s.flumeOut ++ l }.modThr t f)
    let mine := x.st ≠ .unbound ∧ endOwner s.cfg e.val = t ∧ endDir s.cfg e.val = false
    let room := s.flumeOut.length < 8
    let sends := x.held ≠ none ∧ gives = true
    let checks (i : Instr) (n : Nat) (again : Prop) : Prop :=
      (x.st = .unbound → exec i s = s.faulted t 0x22 0x01 0 n) ∧
      (x.st ≠ .unbound → endOwner s.cfg e.val ≠ t → exec i s = s.faulted t 0x23 aux 0 n) ∧
      (x.st ≠ .unbound → endOwner s.cfg e.val = t → endDir s.cfg e.val = true → exec i s = s.faulted t 0x22 0x02 0 n) ∧
      (mine → tile = true → x.armed = false → ¬ again → exec i s = s.faulted t 0x22 0x03 0 n)
    let left := 0 < x.avail ∨ ∃ m ∈ s.ringWrites, m.e = e.val
    let tileLeft := x.armed = true ∧ x.tileHeld = false ∧ x.landed + (s.landWrites.filter (fun m => m.e = e.val)).length = c
    let ended := x.st = .closed ∨ (x.st = .peerClosed ∧ ((tile = false ∧ ¬ left) ∨ (tile = true ∧ ¬ tileLeft)))
    let again := x.lost = true ∧ x.st = .closed
    let open_ := mine ∧ ¬ ended ∧ (tile = true → x.armed = true)
    let ringReady := tile = false ∧ 0 < x.avail
    let tileReady := tile = true ∧ x.armed = true ∧ x.tileHeld = false ∧ x.landed = c
    let ringTaken : FEnd := { freed with held := some x.take, take := (x.take + 1) % c, avail := x.avail - 1, pacc := x.pacc + 1 }
    let tileTaken : FEnd := { x with tileHeld := true, pacc := x.pacc + 1 }
    let a := wd (slotAddr s.cfg e.val x.take)
    (s.clear t { words := 2, writes := [rd.val] } = true → s.fetches t (.recv t rd e) = true →
      let r := exec (.recv t rd e) s
      let full := ((s.thr t).ops.filter (fun o => o.dests ≠ [])).length ≥ 4
      checks (.recv t rd e) 2 again ∧
      (mine → ended → tile = false ∨ x.armed = true ∨ again → r = s.faulted t 0x20 aux 0 2) ∧
      (open_ → full → r = s.waits t (.recv t rd e) 2) ∧
      (open_ → ¬ full →
        (ringReady → room → r = with_ ringTaken out (fun th => th.wrote [(rd.val, a)] 2)) ∧
        (ringReady → sends → ¬ room → r = s.waits t (.recv t rd e) 2) ∧
        (tileReady → r = with_ tileTaken [] (fun th => th.wrote [(rd.val, wd c)] 2)) ∧
        (¬ ringReady → ¬ tileReady → r = .next (s.modThr t (fun th => th.parked (.recv e.val) (.recv t rd e) 2))))) ∧
    (rd.val % 2 = 0 → s.clear t { words := 2, writes := [rd.val, rd.val + 1] } = true → s.fetches t (.recvC t rd e) = true →
      let r := exec (.recvC t rd e) s
      checks (.recvC t rd e) 2 False ∧
      (mine → tile = false ∨ x.armed = true →
        (¬ ended → ringReady → room → r = with_ ringTaken out (fun th => th.wrote [(rd.val, 1), (rd.val + 1, a)] 2)) ∧
        (¬ ended → ringReady → sends → ¬ room → r = s.waits t (.recvC t rd e) 2) ∧
        (¬ ended → tileReady → r = with_ tileTaken [] (fun th => th.wrote [(rd.val, 1), (rd.val + 1, wd c)] 2)) ∧
        (ended ∨ (¬ ringReady ∧ ¬ tileReady) → r = s.did t [(rd.val, 0)] 2))) ∧
    (s.clear t {} = true → s.fetches t (.fdone t e) = true →
      let r := exec (.fdone t e) s
      checks (.fdone t e) 1 False ∧
      (mine →
        (tile = false → x.held = none → r = s.did t [] 1) ∧
        (tile = false → x.held ≠ none → room → r = with_ freed out (fun th => th.advance 1)) ∧
        (tile = false → sends → ¬ room → r = s.waits t (.fdone t e) 1) ∧
        (tile = true → x.armed = true → x.tileHeld = true → room → r =
          with_ { x with tileHeld := false, nextRow := 0, landed := 0, credit := x.credit - c } [credit c] (fun th => th.advance 1)) ∧
        (tile = true → x.armed = true → x.tileHeld = false → r = s.did t [] 1) ∧
        (tile = true → x.armed = true → x.tileHeld = true → ¬ room → r = s.waits t (.fdone t e) 1)))

/-- R354, R359, R360, R367, R368, R372 to R375: FCLOSE, FLAND and FINFO make the checks of R359 in their order. FCLOSE of an OPEN end sends
its closing packet and leaves the end CLOSED with what it held discarded, and disarms a TILE end that is not OPEN; FLAND arms the
landing on a tile whose shape fits and returns its rows as credits; FINFO reads the status words and the peer. Log entry 16 names what
here is the model's own reading or choice. -/
def Obligations.FlumeEndCommands : Prop :=
  ∀ (s : State) (t : Tid) (e : EndNo) (rd : Reg) (tn : LTile),
    let x := s.fend e.val
    let c := endSlots s.cfg e.val + 1
    let word0 := endPend s.cfg e.val + 32 * e.val
    let with_ (z : FEnd) (p : Packet) (f : Thread → Thread) : Out :=
      .next ({ s.setEnd e.val z with flumeOut := s.flumeOut ++ [p] }.modThr t f)
    let checks (i : Instr) (p : Pre) : Prop := s.clear t p = true → s.fetches t i = true →
      (x.st = .unbound → exec i s = s.faulted t 0x22 0x01 0 2) ∧
      (x.st ≠ .unbound → endOwner s.cfg e.val ≠ t → exec i s = s.faulted t 0x23 (BitVec.ofNat 8 e.val) 0 2)
    checks (.fclose t e) { words := 2 } ∧ checks (.fland t e tn) { words := 2, uses := [0x0F + tn.val / 4] } ∧
    (rd.val % 2 = 0 → ∀ i ∈ ([.finfoS t rd e, .finfoN t rd e, .finfoP t rd e] : List Instr),
      checks i { words := 2, writes := [rd.val, rd.val + 1] }) ∧
    (x.st ≠ .unbound → endOwner s.cfg e.val = t → endDir s.cfg e.val = true →
      s.clear t { words := 2, uses := [0x0F + tn.val / 4] } = true → s.fetches t (.fland t e tn) = true →
      exec (.fland t e tn) s = s.faulted t 0x22 0x02 0 2) ∧
    (x.st ≠ .unbound → endOwner s.cfg e.val = t → s.flumeOut.length < 8 →
    (s.clear t { words := 2 } = true → (s.thr t).park = none → (∀ n < 4, (s.lane n).phase ≠ .message ∧ (s.lane n).phase ≠ .reserved) →
      (∀ m ∈ s.ringWrites, m.e ≠ e.val) → (∀ m ∈ s.landWrites, m.e ≠ e.val) →
      let event (th : Thread) : Thread :=
        if endEve s.cfg e.val then th.setCtl 0x09 (th.ctlW 0x09 ||| wd (2 ^ endEvv s.cfg e.val)) else th
      (x.st ≠ .opened → s.fetches t (.fclose t e) = true → exec (.fclose t e) s =
        .next ((if endTile s.cfg e.val then s.setEnd e.val { x with armed := false } else s).modThr t (fun th => th.advance 2))) ∧
      (x.st = .opened → endDir s.cfg e.val = true → s.fetches t (.fclose t e) = true → exec (.fclose t e) s =
        with_ { x with st := .closed, landing := [], resv := false, lost := x.lost || decide (x.landing ≠ []) }
          ⟨0, endPeer s.cfg e.val, s.ident, [wd (word0 + 1024), x.seq]⟩ (fun th => (event th).advance 2)) ∧
      (x.st = .opened → endDir s.cfg e.val = false → s.fetches t (.fclose t e) = true → exec (.fclose t e) s =
        with_ { x with st := .closed, credit := 0, u := 0, fill := 0, take := 0, avail := 0, held := none, tileHeld := false,
                       armed := false, nextRow := 0, landed := 0 }
          ⟨1, endPeer s.cfg e.val, s.ident, [wd (word0 + 1024), x.seq, x.pacc]⟩ (fun th => (event th).advance 2))) ∧
    (s.clear t { words := 2, uses := [0x0F + tn.val / 4] } = true → endDir s.cfg e.val = false → s.fetches t (.fland t e tn) = true →
      let p := (s.thr t).phys tn.val
      let sh := (s.thr t).shape tn.val
      let r := exec (.fland t e tn) s
      (endTile s.cfg e.val = false ∨ x.armed = true → r = s.faulted t 0x22 0x03 0 2) ∧
      (endTile s.cfg e.val = true → x.armed = false →
        (tileOwner s.cfg p ≠ some t.val → r = s.faulted t 0x16 (BitVec.ofNat 8 tn.val) 0 2) ∧
        (tileOwner s.cfg p = some t.val → shRows sh ≠ endSlots s.cfg e.val → r = s.faulted t 0x10 0x51 0 2) ∧
        (tileOwner s.cfg p = some t.val → shRows sh = endSlots s.cfg e.val → shWpr sh ≤ endMaxlen s.cfg e.val →
          r = s.faulted t 0x10 0x50 0 2) ∧
        (tileOwner s.cfg p = some t.val → shRows sh = endSlots s.cfg e.val → endMaxlen s.cfg e.val < shWpr sh → s.poisoned p = true →
          r = s.faulted t 0x12 (BitVec.ofNat 8 tn.val) 0 2) ∧
        (tileOwner s.cfg p = some t.val → shRows sh = endSlots s.cfg e.val → endMaxlen s.cfg e.val < shWpr sh → s.poisoned p = false →
          r = with_ { x with armed := true, phys := p, shape := sh, nextRow := 0, landed := 0, tileHeld := false }
            ⟨1, endPeer s.cfg e.val, s.ident, [wd word0, wd c]⟩ (fun th => th.advance 2)))) ∧
    (rd.val % 2 = 0 → s.clear t { words := 2, writes := [rd.val, rd.val + 1] } = true →
      let snd := endDir s.cfg e.val
      let st : Nat := match x.st with
        | .unbound => 0
        | .opened => 1
        | .closed => 2
        | .peerClosed => 3
        | .peerAbsent => 4
      let lane := s.lanes.any (fun l =>
        decide (l.2.st = .running) && decide (l.2.phase = .reserved) && decide (fld (l.2.desc.getD 7 0) 8 4 = e.val))
      let two (a b : Word) : Out := s.did t [(rd.val, a), (rd.val + 1, b)] 2
      (s.fetches t (.finfoS t rd e) = true → exec (.finfoS t rd e) s = two (wd (st + 8 * (x.credit % 128) +
        1024 * (if (if snd then x.resv || lane else x.held.isSome || x.tileHeld) then 1 else 0) + 2048 * (if snd then x.landing.length else 0)))
        x.seq) ∧
      (s.fetches t (.finfoN t rd e) = true →
        exec (.finfoN t rd e) s = two x.pacc (if snd then x.pcon else wd (x.nextRow % 64 + (if x.armed then 32768 else 0)))) ∧
      (s.fetches t (.finfoP t rd e) = true → exec (.finfoP t rd e) s = two (endW s.cfg e.val 1) (endW s.cfg e.val 2))))

/-- R36, R361, R367, R370, R371, R372, R375: a message that meets the four conditions of R370 is accepted and goes to the next slot or row,
and one that does not is discarded and counted; CREDIT adds credits to the send end it names and reserves one for a waiting landing;
CLOSE and CLOSED from the peer take an OPEN end to PEER_CLOSED, and every CLOSED received is counted. An ABS that answers one of the
last 64 messages of an OPEN end takes it to PEER_ABSENT, and one for no OPEN end is discarded (R36). Log entries 12, 17 and 45 name
what here is the model's own reading or choice. -/
def Obligations.FlumePacketsIn : Prop :=
  ∀ (s : State) (src : CoreId) (e f : EndNo) (kind : BitVec 2) (seq value consumed : Word) (why : BitVec 4) (data : List Word),
    s.live = true → s.core ≠ .clearing → s.warm = none →
    let x := s.fend e.val
    let c := endSlots s.cfg e.val + 1
    let peer := endPeer s.cfg e.val = src ∧ endPend s.cfg e.val = f.val
    let event (s : State) : State := if endEve s.cfg e.val then s.setEv (endOwner s.cfg e.val) (endEvv s.cfg e.val) else s
    let dropped (r : Out) : Prop := ∃ u, r = .next u ∧ u.ends = s.ends ∧ u.threads = s.threads ∧ u.ringWrites = s.ringWrites ∧
      u.landWrites = s.landWrites ∧ Tab.get 0 u.tally 0x20 = satAdd (Tab.get 0 s.tally 0x20) 1
    let quiet := (s.thr (endOwner s.cfg e.val)).park = none ∧ ∀ n < 4, (s.lane n).phase ≠ .message ∧ (s.lane n).phase ≠ .reserved
    let got (cls : BitVec 4) (pl : List Word) : State :=
      if src = s.ident then { s with loop := s.loop.erase ⟨cls, s.ident, src, pl⟩ } else s
    (data.length ≤ 62 →
      let ok := x.st = .opened ∧ endDir s.cfg e.val = false ∧ peer ∧ kind = 0 ∧ 1 ≤ data.length ∧
        data.length ≤ endMaxlen s.cfg e.val + 1 ∧
        seq = x.seq + 1 ∧ x.credit < c ∧ (endTile s.cfg e.val = true → x.armed = true)
      let s' := got 0 (wd (e.val + 32 * f.val + 1024 * kind.toNat + 4096 * (data.length - 1)) :: seq :: data)
      (¬ ok → dropped (exec (.flmMsg src e f kind seq data) s)) ∧
      (ok → endTile s.cfg e.val = false → exec (.flmMsg src e f kind seq data) s = .next (event
        { s'.setEnd e.val { x with seq := seq, credit := x.credit + 1, fill := (x.fill + 1) % c } with
          ringWrites := s.ringWrites ++ [⟨e.val, x.fill, seq, data⟩] })) ∧
      (ok → endTile s.cfg e.val = true → exec (.flmMsg src e f kind seq data) s = .next
        { s'.setEnd e.val { x with seq := seq, credit := x.credit + 1 } with
          landWrites := s.landWrites ++ [⟨e.val, x.credit, seq, data⟩] })) ∧
    (let ok := x.st = .opened ∧ endDir s.cfg e.val = false ∧ peer ∧ seq = x.seq
     (¬ ok → dropped (exec (.flmClose src e f seq) s)) ∧
     (ok → quiet → exec (.flmClose src e f seq) s = .next (event
       ((got 0 [wd (e.val + 32 * f.val + 1024), seq]).setEnd e.val { x with st := .peerClosed })))) ∧
    (let mine := x.st = .opened ∧ endDir s.cfg e.val = true ∧ peer
     (¬ (mine ∧ 1 ≤ value.toNat ∧ value.toNat ≤ 64) → dropped (exec (.fcrCredit src e f value) s)) ∧
     (mine → 1 ≤ value.toNat → value.toNat ≤ 64 →
       let y : FEnd := { x with credit := x.credit + value.toNat }
       let z : FEnd := if x.landing ≠ [] ∧ x.resv = false then { y with credit := y.credit - 1, resv := true } else y
       let s' := got 1 [wd (e.val + 32 * f.val), value]
       exec (.fcrCredit src e f value) s = .next (if x.credit = 0 then event (s'.setEnd e.val z) else s'.setEnd e.val z)) ∧
     (¬ mine → dropped (exec (.fcrClosed src e f why value consumed) s) ∧
       ∀ u, exec (.fcrClosed src e f why value consumed) s = .next u → Tab.get 0 u.tally 0x21 = satAdd (Tab.get 0 s.tally 0x21) 1) ∧
     (mine → quiet → exec (.fcrClosed src e f why value consumed) s = .next (event
       (((got 1 [wd (e.val + 32 * f.val + 1024 + 4096 * why.toNat), value, consumed]).count 0x21 1).setEnd e.val
         { x with st := .peerClosed, pacc := value, pcon := consumed, landing := [], resv := false,
                  lost := x.lost || decide (x.landing ≠ []) })))) ∧
    (let near (e : Nat) : Prop := endDir s.cfg e = true ∧ endPeer s.cfg e = src ∧ ((s.fend e).seq - seq).toNat < 64
     (near e.val → x.st = .opened → (∀ n < e.val, ¬ (near n ∧ (s.fend n).st = .opened)) → quiet →
       exec (.abs src 0 seq) s = .next (event (s.setEnd e.val { x with
         st := .peerAbsent, pacc := seq - 1, pcon := seq - 1, landing := [], resv := false, lost := x.lost || decide (x.landing ≠ []) }))) ∧
     ((∀ n < 32, ¬ (near n ∧ (s.fend n).st = .opened)) → dropped (exec (.abs src 0 seq) s)))

/-- R356, R357, R363, R373, R379, R381, R382: FLUME_PACKET_OUT sends the oldest packet; RING_SLOT_WRITE writes an accepted message's
length, sequence number and data to its slot and no other word; TILE_LANDING_WRITE writes its data to its row and no other tile word,
while the end is ARMED and its owner holds the tile (R217); FLUME_STALL wakes a sender that has waited 2 to the STALL cycles with a
fault; STILLNESS gives every parked thread of a core that has been still for 64 cycles an item and tells Fraina once. Log entries 17,
18 and 47 name what here is the model's own reading or choice. -/
def Obligations.FlumeTransport : Prop :=
  ∀ (s : State) (e : EndNo) (m : InMsg), s.runs = true →
    (∀ p q, s.flumeOut = p :: q → exec .flumePacketOut s = .next { s with
      flumeOut := q, gpOut := s.gpOut ++ [p], loop := if p.dst = s.ident then s.loop ++ [p] else s.loop }) ∧
    (s.ringWrites.find? (fun m => m.e = e.val) = some m →
      let a := slotAddr s.cfg e.val m.place
      a + m.data.length + 2 ≤ 65536 →
      ∃ u, exec (.ringSlotWrite e) s = .next u ∧ u.ringWrites = s.ringWrites.erase m ∧ u.tiles = s.tiles ∧ u.threads = s.threads ∧
        u.fend e.val = { s.fend e.val with avail := (s.fend e.val).avail + 1 } ∧
        ∀ b < 65536, u.mget b =
          if b = a then pw (wd (m.data.length - 1)) else if b = a + 1 then pw m.seq
          else if a + 2 ≤ b ∧ b < a + 2 + m.data.length then pw (m.data.getD (b - a - 2) 0) else s.mget b) ∧
    (s.landWrites.find? (fun m => m.e = e.val) = some m →
      let x := s.fend e.val
      let i := m.place * shWpr x.shape
      let mine := x.armed = true ∧ tileOwner s.cfg x.phys = some (endOwner s.cfg e.val)
      (¬ mine → exec (.tileLandingWrite e) s = .next { s with landWrites := s.landWrites.erase m }) ∧
      (mine → i + m.data.length ≤ 512 → ∃ u, exec (.tileLandingWrite e) s = .next u ∧ u.landWrites = s.landWrites.erase m ∧
        u.mem = s.mem ∧
        u.fend e.val = { x with nextRow := x.nextRow + 1, landed := x.landed + 1 } ∧
        (x.landed + 1 ≠ endSlots s.cfg e.val + 1 → u.threads = s.threads) ∧
        ∀ p < 16, ∀ k < 512, u.tget p k = if p = x.phys ∧ i ≤ k ∧
          k < i + m.data.length then pw (m.data.getD (k - i) 0) else s.tget p k)) ∧
    (∀ t j, t = endOwner s.cfg e.val → (s.thr t).st = .parked → (s.thr t).park = some ⟨.sendE e.val, j⟩ →
      (s.fend e.val).resv = false → (s.thr t).sync = none →
      2 ^ endStall s.cfg e.val ≤ (s.fend e.val).stall →
      ∃ u, exec (.flumeStall e) s = .next u ∧ (u.thr t).st = .running ∧ u.mem = s.mem ∧ u.ends = s.ends ∧
        (u.thr t).sync = some ⟨0x21, BitVec.ofNat 8 e.val, (s.thr t).pc, 0, some (s.thr t).pc, true, none⟩) ∧
    (64 ≤ s.stillCtr → s.stillRaised = false → s.isStill = true →
      ∃ u, exec .stillness s = .next u ∧ u.stillRaised = true ∧ u.mem = s.mem ∧
        (∀ t, (s.thr t).st = .parked → (u.thr t).still = some (item 0x28 (s.thr t).stillAux (s.thr t).pc 0)) ∧
        (∀ t, (s.thr t).st ≠ .parked → u.thr t = s.thr t) ∧
        (s.notices.length < 16 → ∃ n, u.notices = s.notices ++ [n] ∧ n.code = 0x84 ∧ n.words.length = 4))

/-! ## The skidder -/

/-- R384, R387, R388, R396, R397: SKID on an enabled lane of the thread that is not RUNNING is handed off and starts the lane at the
address in rs; SKSTAT reads the lane's status; SKSTOP stops a RUNNING lane with REASON 0x0B, and its outstanding requests are
discarded, but of a descriptor that has completed the notices are sent first. A lane that the thread may not use takes MOVER_ERROR. A
credit that the lane held for its completion message goes back, which is the model's choice (log entry 48). Log entry 21 names what
here is the model's own reading or choice. -/
def Obligations.SkidderCommands : Prop :=
  ∀ (s : State) (t : Tid) (n : LaneNo) (r : Reg),
    let l := s.lane n.val
    let usable := laneEn s.cfg n.val = true ∧ laneOwner s.cfg n.val = t
    let denied (k : Nat) : Out := s.faulted t 0x38 (BitVec.ofNat 8 (0x20 + n.val)) 0 k
    let code : Nat := match l.st with
      | .idle => 0
      | .running => 1
      | .stopped => 2
    let d := l.desc
    let back : State := if l.phase = .reserved then
      s.modEnd (dFend d) (fun x => if x.st = .opened then { x with credit := x.credit + 1 } else x) else s
    let stop (s : State) : State := { s.setLane n.val { l with st := .stopped, reason := 0x0B, op := none, phase := .none, stopReq := false } with
      movTags := s.movTags.mapVal (MovTag.drop n.val) }
    let ev : State := if bit (d.getD 0 0) 9 then s.setEv t (fld (d.getD 0 0) 13 10) else s
    (s.clear t { words := 2, reads := [r.val], long := true } = true → s.fetches t (.skid t n r) = true →
      (¬ usable → exec (.skid t n r) s = denied 2) ∧
      (usable → l.st = .running → exec (.skid t n r) s = s.faulted t 0x38 (BitVec.ofNat 8 (0x30 + n.val)) 0 2) ∧
      (usable → l.st ≠ .running → exec (.skid t n r) s = .next ((s.handed t 6 [] [] false 2).setLane n.val
        { Lane.init with st := .running, daddr := (s.thr t).reg r.val, pc := (s.thr t).pc, op := some s.nextId, phase := .takeUp }))) ∧
    (r.val % 2 = 0 → s.clear t { words := 2, writes := [r.val, r.val + 1] } = true → s.fetches t (.skstat t r n) = true →
      (¬ usable → exec (.skstat t r n) s = denied 2) ∧
      (usable → exec (.skstat t r n) s = s.did t [(r.val, wd (code + 256 * l.reason.toNat)), (r.val + 1, l.daddr)] 2)) ∧
    (s.clear t {} = true → s.fetches t (.skstop t n) = true →
      (¬ usable → exec (.skstop t n) s = denied 1) ∧
      (usable → l.st ≠ .running → exec (.skstop t n) s = s.did t [] 1) ∧
      (usable → l.st = .running → l.phase ≠ .complete ∨ s.laneTags n.val ≠ 0 →
        (l.op = none → exec (.skstop t n) s = .next ((stop back).modThr t (fun th => th.advance 1))) ∧
        (∀ o, l.op = some o.id → (s.thr t).ops.find? (fun q => q.id = o.id) = some o →
          exec (.skstop t n) s = .next ((stop back).modThr t (fun th => (th.retired s.cycle o []).advance 1)))) ∧
      (usable → l.st = .running → l.phase = .complete → s.laneTags n.val = 0 → l.op = none →
        (dFlm d = false → exec (.skstop t n) s = .next ((stop ev).modThr t (fun th => th.advance 1))) ∧
        (dFlm d = true → (s.fend (dFend d)).st = .opened → exec (.skstop t n) s = .next
          ((ev.setLane n.val { l with stopReq := true, phase := .message, msgWait := 0 }).modThr t (fun th => th.advance 1)))))

/-- R390, R393, R394, R395, R396, R402: DESCRIPTOR_TAKE_UP reads and checks the descriptor and the first SKID retires, or the lane stops
with the REASON of the first failed check; SKIDDER_PORT_ACCESS makes the next write whose words are there, else the next read, locally
or as a MOV request, and reads and writes the blaze slots; answers bring their words; DESCRIPTOR_COMPLETE and COMPLETION_MESSAGE report
and go on to NEXT or IDLE; a failed answer stops the lane. Log entries 21, 43, 45 and 61 name what here is the model's own reading or
choice. -/
def Obligations.SkidderRuns : Prop :=
  ∀ (s : State) (n : LaneNo), s.runs = true →
    let l := s.lane n.val
    let d := l.desc
    let t := laneOwner s.cfg n.val
    let after : Lane :=
      if bit (d.getD 0 0) 8 then { l with phase := .takeUp } else { l with st := .idle, phase := .none }
    let stops (r : Out) (reason : BitVec 8) : Prop := ∃ u, r = .next u ∧ (u.lane n.val).st = .stopped ∧
      (u.lane n.val).reason = reason ∧ u.mem = s.mem ∧ u.tiles = s.tiles
    let mov (dst : CoreId) (kind tag : Nat) (a : Nat) (k : Nat) (ws : List Word) : Packet :=
      ⟨4, dst, s.ident, [(s.thr t).wt.setWidth 16, wd (kind + 256 * tag), wd a, wd (a / 2 ^ 16), wd (a / 2 ^ 32), wd (a / 2 ^ 48),
        wd (k - 1)] ++ ws⟩
    l.st = .running →
    (l.phase = .takeUp →
      let words := (List.range 16).map (fun i => (s.mget (l.daddr.toNat + i)).d)
      (∀ o, l.op = some o.id → (s.thr t).ops.find? (fun q => q.id = o.id) = some o →
        s.takeUpFault t l.daddr.toNat words = none →
        ∃ u, exec (.descriptorTakeUp n) s = .next u ∧ u.thr t = (s.thr t).retired s.cycle o [] ∧ u.mem = s.mem ∧
          (u.lane n.val).desc = words ∧
          (u.lane n.val).st = .running ∧ (u.lane n.val).op = none ∧ (u.lane n.val).rd = 0 ∧ (u.lane n.val).wr = 0 ∧
          (u.lane n.val).phase = (if bit (words.getD 0 0) 7 then .sealInit
            else if bit (words.getD 0 0) 6 ∧ (words.getD 0 0).toNat % 16 ≠ 1 then .verifyRead else .move)) ∧
      (l.op = none → (s.thr t).commitHold = false →
        let next := d.getD 1 0
        let words := (List.range 16).map (fun i => (s.mget (next.toNat + i)).d)
        (s.takeUpFault t next.toNat words = none → ∃ u, exec (.descriptorTakeUp n) s = .next u ∧ u.threads = s.threads ∧
          u.mem = s.mem ∧
          (u.lane n.val).desc = words ∧ (u.lane n.val).daddr = next ∧ (u.lane n.val).st = .running) ∧
        ∀ r, s.takeUpFault t next.toNat words = some r → stops (exec (.descriptorTakeUp n) s) r) ∧
      (∀ r, l.op ≠ none → s.takeUpFault t l.daddr.toNat words = some r → stops (exec (.descriptorTakeUp n) s) r) ∧
      (l.daddr.toNat % 16 ≠ 0 → s.takeUpFault t l.daddr.toNat words = some 0x01)) ∧
    (l.phase = .sealInit → dDfar d = false →
      exec (.skidderPortAccess n) s = .next ((s.msetList (dstSlot d) [0xFFFF,
        0xFFFF]).setLane n.val { l with phase := afterSeal d })) ∧
    (l.phase = .verifyRead → dSfar d = false →
      exec (.skidderPortAccess n) s = .next (s.setLane n.val { l with
        phase := .move, slotVal := ((s.mget (srcSlot d)).d, (s.mget (srcSlot d + 1)).d), badWord := (s.badIn (srcSlot d) 2).isSome })) ∧
    (l.phase = .sealWrite → dDfar d = false →
      exec (.skidderPortAccess n) s = .next ((s.msetList (dstSlot d) l.sealWords).setLane n.val { l with phase := .complete })) ∧
    (∀ p ws, l.phase = .move → (writePieces d)[l.wr]? = some p → l.pieceWords p = some ws →
      let a := dstBase d + p.row * dDstride d + p.col
      (dDfar d = false → a + ws.length ≤ 65536 → ∃ u, exec (.skidderPortAccess n) s = .next u ∧ (u.lane n.val).wr = l.wr + 1 ∧
        u.tiles = s.tiles ∧
        ∀ b < 65536, u.mget b = if a ≤ b ∧ b < a + ws.length then pw (ws.getD (b - a) 0) else s.mget b) ∧
      (∀ tag dst, dDfar d = true → a < 2 ^ 52 → s.freeMov n.val = some tag → farDst (BitVec.ofNat 52 a) = some dst →
        ∃ u, exec (.skidderPortAccess n) s = .next u ∧ (u.lane n.val).wr = l.wr + 1 ∧ u.mem = s.mem ∧
          Tab.find u.movTags tag = some (.write n.val) ∧ u.gpOut = s.gpOut ++ [mov dst 0 tag a p.n ws])) ∧
    (∀ p, l.phase = .move → (∀ q, (writePieces d)[l.wr]? = some q → l.pieceWords q = none) → (readPieces d)[l.rd]? = some p →
      let a := srcBase d + p.row * dSstride d + p.col
      let pos := p.row * srcW d + p.col
      (dSfar d = false → (∀ i < p.n, parOk (s.mget (a + i)) = true) →
        ∃ u, exec (.skidderPortAccess n) s = .next u ∧ (u.lane n.val).rd = l.rd + 1 ∧ u.mem = s.mem ∧
          ∀ i < p.n, Tab.find (u.lane n.val).src (pos + i) = some (s.mget (a + i)).d) ∧
      (∀ i < p.n, dSfar d = false → parOk (s.mget (a + i)) = false → stops (exec (.skidderPortAccess n) s) 0x06) ∧
      (∀ tag dst, dSfar d = true → a < 2 ^ 52 → s.freeMov n.val = some tag → farDst (BitVec.ofNat 52 a) = some dst →
        ∃ u, exec (.skidderPortAccess n) s = .next u ∧ (u.lane n.val).rd = l.rd + 1 ∧ u.mem = s.mem ∧
          Tab.find u.movTags tag = some (.read n.val pos p.n) ∧ u.gpOut = s.gpOut ++ [mov dst 1 tag a p.n []])) ∧
    (∀ (tag : BitVec 8) (status : BitVec 4) (data : List Word), data.length ≤ 57 →
      (∀ pos k, Tab.find s.movTags tag.toNat = some (.read n.val pos k) → status = 0 → data.length = k →
        ∃ u, exec (.movData tag status data) s = .next u ∧ Tab.find u.movTags tag.toNat = none ∧ u.mem = s.mem ∧
          ∀ i < k, Tab.find (u.lane n.val).src (pos + i) = some (data.getD i 0)) ∧
      (Tab.find s.movTags tag.toNat = some (.write n.val) →
        (status = 0 → l.phase ≠ .move → exec (.movAck tag status) s = .next { s with movTags := Tab.del s.movTags tag.toNat }) ∧
        (status ≠ 0 → stops (exec (.movAck tag status) s) (BitVec.ofNat 8 (0x10 + status.toNat)) ∧
          stops (exec (.movData tag status data) s) (BitVec.ofNat 8 (0x10 + status.toNat))) ∧
        (∀ src, stops (exec (.abs src 4 (tag.setWidth 16)) s) 0x18))) ∧
    (l.phase = .complete → s.laneTags n.val = 0 →
      let ev : State := if bit (d.getD 0 0) 9 then s.setEv t (fld (d.getD 0 0) 13 10) else s
      (dFlm d = false → l.stopReq = false → exec (.descriptorComplete n) s = .next (ev.setLane n.val after)) ∧
      (dFlm d = false → l.stopReq = true → stops (exec (.descriptorComplete n) s) 0x0B) ∧
      (dFlm d = true → (s.fend (dFend d)).st = .opened →
        exec (.descriptorComplete n) s = .next (ev.setLane n.val { l with phase := .message, msgWait := 0 })) ∧
      (dFlm d = true → (s.fend (dFend d)).st ≠ .opened → stops (exec (.descriptorComplete n) s) 0x0D)) ∧
    (let e := dFend d
     let x := s.fend e
     let sent (credit : Nat) : State := { s.setEnd e { x with seq := x.seq + 1, credit := credit } with
       flumeOut := s.flumeOut ++ [⟨0, endPeer s.cfg e, s.ident, [wd (endPend s.cfg e + 32 * e), x.seq + 1, l.daddr]⟩] }
     (l.phase = .message →
      (x.landing = [] → 0 < x.credit → s.flumeOut.length < 8 → l.stopReq = false →
        exec (.completionMessage n) s = .next ((sent (x.credit - 1)).setLane n.val after)) ∧
      (x.landing = [] → 0 < x.credit → 8 ≤ s.flumeOut.length → exec (.completionMessage n) s =
        .next ((s.setEnd e { x with credit := x.credit - 1 }).setLane n.val { l with phase := .reserved })) ∧
      (x.landing ≠ [] ∨ x.credit = 0 → exec (.completionMessage n) s = .next s) ∧
      (x.landing ≠ [] ∨ x.credit = 0 → 2 ^ endStall s.cfg e ≤ l.msgWait → stops (exec (.completionMessageStall n) s) 0x0A)) ∧
     (l.phase = .reserved →
      (s.flumeOut.length < 8 → l.stopReq = false → exec (.completionMessage n) s = .next ((sent x.credit).setLane n.val after)) ∧
      (8 ≤ s.flumeOut.length → exec (.completionMessage n) s = .next s)))

/-! ## Remote requests -/

/-- R145, R152, R155, R403, R438: a remote read of words that the compartments let its world and tenant read answers them with OK, a remote
write that they permit writes exactly its words and answers OK; a core that is FAULTED or in a warm reset answers RESETTING, a request
out of form or for another core BAD_REQUEST, a denied one REFUSED, which is counted, and a read of a failing word PARITY; none of these
changes memory. Log entries 22 and 44 name what here is the model's own reading or choice. -/
def Obligations.RemoteAccess : Prop :=
  ∀ (s : State) (src : CoreId) (wt : WT) (tag : BitVec 8) (addr : FarAddr) (op : BitVec 4) (n : Nat) (m1 : BitVec 6) (mask : Word)
    (data : List Word), s.live = true → s.core ≠ .clearing → data.length ≤ 57 →
    let blk : FarAddr := BitVec.ofNat 52 (addr.toNat / 16 * 16)
    let away := s.core = .faulted ∨ s.warm ≠ none
    let frs (st : Nat) (ws : List Word) : Packet := ⟨3, src, s.ident, wd (tag.toNat + 256 * st) :: ws⟩
    let ans (kind st : Nat) (ws : List Word) : Packet :=
      ⟨4, src, s.ident, [wt.setWidth 16, wd (kind + 256 * tag.toNat), 0, 0, 0, 0, wd (256 * st)] ++ ws⟩
    let own (a : FarAddr) : Prop := farSpace a = true ∧ farIndex a = s.ident.toNat % 2 ^ 15
    let said (p : Packet) : Out := .next { s with gpOut := s.gpOut ++ [p] }
    let fails (r : Out) (a : FarAddr) (k : Nat) (pm : Perm) (form : Prop) (p : Nat → Packet) : Prop :=
      (away → r = said (p 6)) ∧ (¬ away → ¬ form ∨ ¬ own a → r = said (p 7)) ∧
      (¬ away → form → own a → rangeCheck s.cfg wt (farWord a) (farWord a + k - 1) [pm] ≠ none →
        r = .next { s.count 0x1B 1 with gpOut := s.gpOut ++ [p 1] })
    let read (r : Out) (a : FarAddr) (k : Nat) (form : Prop) (p : Nat → List Word → Packet) : Prop :=
      fails r a k .r form (fun st => p st []) ∧
      (¬ away → form → own a → rangeCheck s.cfg wt (farWord a) (farWord a + k - 1) [.r] = none →
        ((∀ i < k, parOk (s.mget (farWord a + i)) = true) →
          r = said (p 0 ((List.range k).map (fun i => (s.mget (farWord a + i)).d)))) ∧
        ∀ i < k, parOk (s.mget (farWord a + i)) = false → ∃ u, r = .next u ∧ u.mem = s.mem ∧ u.gpOut = s.gpOut ++ [p 5 []])
    let write (r : Out) (a : FarAddr) (k : Nat) (form : Prop) (on : Nat → Bool) (p : Nat → Packet) : Prop :=
      fails r a k .w form p ∧
      (¬ away → form → own a → rangeCheck s.cfg wt (farWord a) (farWord a + k - 1) [.w] = none →
        ∃ u, r = .next u ∧ u.gpOut = s.gpOut ++ [p 0] ∧ u.tiles = s.tiles ∧ u.threads = s.threads ∧
          ∀ b < 65536, u.mget b =
            if farWord a ≤ b ∧ b < farWord a + k ∧ on (b - farWord a) = true then pw (data.getD (b - farWord a) 0) else s.mget b)
    read (exec (.farReadLineIn src wt tag addr) s) blk 16 True frs ∧
    read (exec (.farReadIn src wt tag op addr n) s) addr n (op = 2 ∧ (n = 1 ∨ n = 2)) frs ∧
    read (exec (.movRead src wt tag op addr m1) s) addr (m1.toNat + 1) (op = 1 ∧ m1.toNat < 32) (ans (if op = 1 then 2 else 3)) ∧
    write (exec (.farWriteBlockIn src wt tag addr mask data) s) blk 16 (data.length = 16) (bit mask) (fun st => frs st []) ∧
    write (exec (.farWriteIn src wt tag addr data) s) addr data.length (data.length = 1 ∨ data.length = 2) (fun _ => true)
      (fun st => frs st []) ∧
    write (exec (.movWrite src wt tag addr data) s) addr data.length (1 ≤ data.length ∧ data.length ≤ 32) (fun _ => true)
      (fun st => ans 3 st [])

/-! ## Threads between instructions -/

/-- R58, R62 to R65, R68, R83, R125, R127, R131, R362, R364, R419, R472, R478: PARK_RESUME wakes a thread whose condition has come true and
completes its instruction, or executes the one that waited for its array, or for the results outstanding before a save; HELD_DISPATCH
computes the oldest ready station and writes its result; CAPACITY_WAIT_ISSUE executes the waiting instruction, whichever it is, once
nothing holds it; HALT_POINT makes a thread that is asked to halt HALTED at its PC and answers DBG_HALT or DBG_STEP. Log entries 1, 29,
36, 50 and 59 name what here is the model's own reading or choice. -/
def Obligations.ThreadEvents : Prop :=
  ∀ (s : State) (t : Tid), s.runs = true →
    let th := s.thr t
    let woken (th : Thread) : Thread := { (if th.dlbBound.isSome then th.setDlb 0 else th) with st := .running, park := none }
    let past (n : Nat) (th : Thread) : Thread := ({ th with waiting := none, again := false }.setPc (th.pc + wd n)).stepDone
    (∀ k i, th.st = .parked → th.park = some ⟨k, i⟩ → th.haltReq = none → th.rep = none →
      let done (s : State) : Out := .next (s.modThr t (fun th => past 1 (woken th)))
      let goes (w0 w1 : Word) : Prop := i = decodeInstr t w0 w1 →
        let s' := s.modThr t (fun th => { woken th with again := true })
        ∃ u, exec i s' = .next u ∧ exec (.parkResume t) s = .next (if s'.canIssue t then u else s)
      (∀ v, k = .wait v → exec (.parkResume t) s = if bit (th.ctlW 0x09) v = true ∧ s.choose t = none then done s else .next s) ∧
      (∀ ids c, k = .settle ids → i = .settle t c →
        exec (.parkResume t) s = if ∀ o ∈ th.ops, o.id ∉ ids then done s else .next s) ∧
      (∀ ids, k = .settle ids → (∀ c, i ≠ .settle t c) →
        (th.held = [] → (∀ o ∈ th.ops, o.id ∉ ids) → ∀ w0 w1, goes w0 w1) ∧
        (th.held ≠ [] ∨ (∃ o ∈ th.ops, o.id ∈ ids) → (∀ u c, i ≠ .settle u c) → exec (.parkResume t) s = .next s)) ∧
      (∀ a, k = .array a → (bit s.ready (6 + a) = true → ∀ w0 w1, goes w0 w1) ∧
        (bit s.ready (6 + a) = false → exec (.parkResume t) s = .next s)) ∧
      (∀ e, k = .sendE e → s.flumeOut.length < 8 →
        let x := s.fend e
        exec (.parkResume t) s = if x.resv then
          done { s.setEnd e { x with seq := x.seq + 1, landing := [], resv := false } with
            flumeOut := s.flumeOut ++ [⟨0, endPeer s.cfg e, s.ident,
              [wd (endPend s.cfg e + 32 * (e % 32) + 4096 * (x.landing.length - 1)), x.seq + 1] ++ x.landing⟩] }
        else .next s) ∧
      (∀ e e' rd, k = .recv e → i = .recv t rd e' → rd.val < 8 ∨ th.lfill = true → endTile s.cfg e = false → (s.fend e).held = none →
        let x := s.fend e
        exec (.parkResume t) s = if 0 < x.avail then
          .next ((s.setEnd e { x with held := some x.take, take := (x.take + 1) % (endSlots s.cfg e + 1), avail := x.avail - 1,
                                      pacc := x.pacc + 1 }).modThr t
            (fun th => past 2 ((woken th).writes [((woken th).regNo rd.val, wd (slotAddr s.cfg e x.take))])))
        else .next s)) ∧
    (∀ h vs, th.st = .running ∨ th.st = .parked → th.held.find? (fun h => h.vals.isSome && decide (h.after = [])) = some h →
      h.vals = some vs →
      let ws := h.dests.zip (h.op.eval vs)
      exec (.heldDispatch t) s = .next (s.modThr t (fun th => { th.setRegs ws with
        slotNo := th.slotNo + 1, held := (th.held.filter (fun g => g.id ≠ h.id)).map (fun g => g.feed h.id ws) }))) ∧
    (∀ w0 w1, let i := decodeInstr t w0 w1
      th.waiting = some i → th.st = .running → th.sync = none → th.owes = false → th.service = none ∨ th.service = some ⟨0, 0⟩ →
      (th.haltReq = none ∧ s.choose t = none) ∨ th.inRepN = true ∨ th.service = some ⟨0, 0⟩ →
      ∃ u, exec i (s.modThr t (fun th => { th with again := true, service := none })) = .next u ∧
        exec (.capacityWaitIssue t) s = .next u) ∧
    (∀ rd ra rb : Reg, th.waiting = some (.add t rd ra rb) → th.st = .running → th.sync = none → th.haltReq = none →
      th.service = none →
      th.owes = false → th.skipBreak = false → th.rep = none → s.choose t = none → parOk (th.ctlP 0x0C) = true →
      (∀ r ∈ [ra.val, rb.val], parOk (th.regP (th.regNo r)) = true) →
      s.regsFree t { reads := [ra.val, rb.val], writes := [rd.val] } = true → th.mustSpill { writes := [rd.val] } = false →
      exec (.capacityWaitIssue t) s = s.did t [(rd.val, th.reg ra.val + th.reg rb.val)] 1) ∧
    (th.held = [] → th.haltReq ≠ none →
      let halted (th : Thread) : Thread :=
        { th with st := .halted, haltReq := none, stepping := false, rep := none, waiting := none, again := false }
      let reply (c : AtpCmd) (ws : List Word) : Packet :=
        ⟨5, c.src, s.ident, [wd (c.opcode + 256), c.word 1, c.word 2, wd ws.length] ++ ws⟩
      let ends (f : Thread → Thread) : Prop := ∃ u, exec (.haltPoint t) s = .next u ∧ u.thr t = f th ∧ u.mem = s.mem ∧
        (∀ c, s.atpCur = some (c, .halt t) → u.atpCur = none ∧ u.gpOut = s.gpOut ++ [reply c [th.pc]]) ∧
        (∀ c, s.atpCur = some (c, .step t) → u.atpCur = none ∧
          u.gpOut = s.gpOut ++ [reply c [th.pc, if th.haltReq = some .stepParked then 1 else 0]]) ∧
        (∀ c p1, s.atpCur = some (c, .stop t p1 none) → u.atpCur = some (c, .stop t p1 (some s.mclk)))
      (th.st = .running → th.service = none → (∀ r, th.rep = some r → r.interruptible = true) → (th.precise = true → th.ops = []) →
        ends halted) ∧
      (th.st = .parked → ends (fun th => halted (woken th))))

/-! ## Cruise, notices and discarded packets -/

/-- R29, R33, R143, R144, R446, R447, R482 to R484: a cruise check reads the next group, counts and reports a failing word and changes no
memory; it is forced once 63 cycles have passed. A notice leaves for Fraina once Atpolet is ready, oldest first. A malformed packet is
counted in every core state and has no other effect, but an ATP packet before Atpolet is ready is not counted; the words of a packet
that is laid out as R29 gives them are not malformed at its destination. Log entries 1, 33 and 51 name what here is the model's own
reading or choice. -/
def Obligations.CruiseAndNotices : Prop :=
  ∀ (s : State) (ov : Bool) (words : List Word), s.live = true →
    let g := s.cruiseNext
    let next : State := { s with cruiseNext := (g + 1) % 16384, cruiseAge := 0 }
    let swept (s : State) : State := if g + 1 = 16384 then s.count 0x18 1 else s
    let bad (i : Nat) : Bool := !parOk (s.mget (4 * g + i))
    let mask := (if bad 0 then 1 else 0) + (if bad 1 then 2 else 0) + (if bad 2 then 4 else 0) + (if bad 3 then 8 else 0)
    let check (r : Out) : Prop :=
      (mask = 0 → r = .next (swept next)) ∧
      (mask ≠ 0 → ∃ u, r = .next u ∧ u.mem = s.mem ∧ u.threads = s.threads ∧ u.cruiseNext = next.cruiseNext ∧
        Tab.get 0 u.tally 0x19 = satAdd (Tab.get 0 s.tally 0x19) 1 ∧
        (s.notices.length < 16 → u.notices = s.notices ++ [⟨0x86, s.noticeSeq, [wd (4 * g), wd (mask + if ov then 16 else 0)]⟩]))
    (s.core ≠ .clearing →
      check (exec (.cruiseCheck ov) s) ∧
      (63 ≤ s.cruiseAge → check (exec (.cruiseForcedCheck ov) s)) ∧
      (s.cruiseAge < 63 → exec (.cruiseForcedCheck ov) s = .next s)) ∧
    (∀ n q, bit s.ready 0 = true → s.notices = n :: q → exec .noticeSend s = .next { s with
      notices := q
      gpOut := s.gpOut ++ [⟨5, (s.ident &&& 0xFF8000) ||| 0x007FFE, s.ident,
        [wd (n.code.toNat + 512), n.tag, 0, wd n.words.length] ++ n.words⟩] }) ∧
    (let h (i : Nat) : Nat := (words.getD i 0).toNat
     let bad := 7 ≤ h 0 % 16 ∨ 64 < h 0 / 16 % 128 ∨ h 0 / 2048 ≠ 0 ∨ h 2 % 256 * 65536 + h 1 ≠ s.ident.toNat
     let foreign := h 0 % 16 = 5 ∧ h 4 / 256 % 4 ≠ 0 ∧ bit s.ready 0 = true
     (bad ∨ foreign → exec (.packetDiscard words) s = .next (s.count 0x2B 1)) ∧
     (¬ bad → ¬ foreign → exec (.packetDiscard words) s = .next s)) ∧
    (∀ p : Packet, p.payload.length ≤ 64 →
      p.words.map (·.toNat) = [p.cls.toNat + 16 * p.payload.length, p.dst.toNat % 65536,
        p.dst.toNat / 65536 + 256 * (p.src.toNat / 65536), p.src.toNat % 65536] ++ p.payload.map (·.toNat) ∧
      (p.cls.toNat < 7 → p.dst = s.ident → p.cls ≠ 5 ∨ (p.payload.getD 0 0).toNat / 256 % 4 = 0 →
        exec (.packetDiscard p.words) s = .next s))

/-! ## Clocks, readiness and resets -/

/-- R437, R485, R490, R492 to R497, R499, R504 to R506, R508: SAFE_OUT is driven in a core that is FAULTED, in fallback or on the
understory root; a failed monitor window declares a failure and begins the fallback, a failed reverse window ends the monitoring and is
reported; a lock begins the switch and a time-out answers BUSY or tries the next source; a count and an array self-test are answered,
and a function becomes ready when its time has passed. One READY notice names the functions that become ready in one cycle. R42, R130,
R143, R167, R379, R382, R396, R416, R440, R467, R488, R495, R499, R502: one delivered cycle, which passes when no command waits,
advances the cycle and slot counters, MCLK at DIV sixteenths of a cycle, the age of cruise, of the entries of the merging buffer, of
the warm drain and of a try of the bring-up, a frequency count, the deadlines of RUNNING and PARKED threads, the stall counts of the
sends that wait and the stillness count, and changes no word of memory, no tile, no register and no other control word. While no cycle
is delivered, only MCLK advances, in a switch of DIV. The limit of a commit wait takes the thread that is then pending. Log entries 1,
2, 30, 31, 33, 46 and 55 name what here is the model's own reading or choice. -/
def Obligations.ClockEvents : Prop :=
  (∀ (s : State) (count : Nat) (a : ArrNo) (pass : Bool) (f : Fn) (failed : List (BitVec 14 × BitVec 4)), s.live = true →
     let k := s.clk
     let t0 := (Tab.get 0 s.trim 3).toNat % 32
     let tol := if t0 = 0 then 8 else t0
     let switching (w : Switch) (k : Clk) : Clk := { k with switch := some w, queue := [] }
     (s.safeOut = true ↔ s.core = .faulted ∨ k.fallback = true ∨ k.selUnder = true ∨ k.root = 2) ∧
     (k.root < 2 → k.monitorOn = true →
       (10 * apart count 320 ≤ 16 * tol → exec (.clockMonitorWindow count) s = .next s) ∧
       (16 * tol < 10 * apart count 320 → exec (.clockMonitorWindow count) s = .next { s with
         ready := setFld s.ready 10 10 1, clk := switching ⟨0, 2, k.div, none, false, false⟩ { k with fallback := true } })) ∧
     (k.root < 2 →
       (100 * apart count 256 ≤ 128 * tol → exec (.reverseCountWindow count) s = .next s) ∧
       (128 * tol < 100 * apart count 256 → ∃ u, exec (.reverseCountWindow count) s = .next u ∧ u.clk = { k with monitorOn := false } ∧
         (s.notices.length < 16 → u.notices = s.notices ++ [⟨0x81, s.noticeSeq, [0x0360, 0x8000, 0, 0, 0, wd count]⟩]))) ∧
     (∀ c, k.selWait = some c → exec .clockSelectLock s =
       .next { s with clk := switching ⟨2, c, 0, none, true, false⟩ { k with selWait := none } }) ∧
     (∀ c m w, k.selWait = some c → s.atpCur = some (m, w) → exec .clockSelectTimeout s =
       .next { s with clk := { k with selWait := none }, atpCur := none, gpOut := s.gpOut ++ [m.answer s.ident 4 [wd k.root]] }) ∧
     (k.bringup = .tryA → exec .bringupCdrLock s = .next { s with clk := switching ⟨2, 0, 0, none, false, true⟩ k }) ∧
     (k.bringup = .tryB → exec .bringupCdrLock s = .next { s with clk := switching ⟨2, 1, 0, none, false, true⟩ k }) ∧
     (4096 ≤ k.tryCycles →
       (k.bringup = .tryA → exec .bringupCdrTimeout s = .next { s with clk := { k with bringup := .tryB, tryCycles := 0 } }) ∧
       (k.bringup = .tryB → ∃ u, exec .bringupCdrTimeout s = .next u ∧ u.clk = { k with bringup := .gaveUp } ∧
         (s.notices.length < 16 → u.notices = s.notices ++ [⟨0x83, s.noticeSeq, [0, 1, 2, wd k.div]⟩]))) ∧
     (∀ (j : FreqJob) (v : Option Word32), k.freq = some j →
       let x := j.req.toNat % 8
       let y := j.req.toNat / 8 % 8
       let n := j.req.toNat / 64 % 32
       let full := (y = 3 ∨ y = 4) ∧ 2 ^ n ≤ j.ys
       let ends : Prop := match v with
         | some _ => j.begun = true ∧ ((y ≠ 3 ∧ y ≠ 4) ∨ full)
         | none => ¬ full ∧ (y ≠ 2 ∨ 2 ^ (n + 4) ≤ j.age)
       let r : Word32 := match v with
         | some w => if x = 3 ∨ x = 4 then BitVec.ofNat 32 j.xs else w
         | none => 0xFFFFFFFF
       (¬ ends → exec (.freqCountDone v) s = .next s) ∧
       (∀ m w, ends → j.svc = none → s.atpCur = some (m, w) → exec (.freqCountDone v) s = .next { s with
         clk := { k with freq := none }, atpCur := none, gpOut := s.gpOut ++ [m.answer s.ident 0 [lo32 r, hi32 r]] }) ∧
       (∀ t sv, ends → j.svc = some t → (s.thr t).service = some sv → exec (.freqCountDone v) s =
         .next ({ s with clk := { k with freq := none } }.modThr t (fun th =>
           ({ th.writes [(0, lo32 r), (1, hi32 r)] with
             service := none, waiting := none, again := false }.setPc (th.pc + 1)).stepDone)))) ∧
     (s.warm = none →
       (∀ t sv, (s.arr a).testing = some t → (s.thr t).service = some sv →
         ∃ u, exec (.arraySelfTestDone a pass) s = .next u ∧ (u.arr a).testing = none ∧
           (u.arr a).felled = ((s.arr a).felled || !pass) ∧
           (u.thr t).regP 0 = pw (if pass then 1 else 0) ∧ (u.thr t).service = none ∧ (u.thr t).pc = (s.thr t).pc + 1) ∧
       ((s.arr a).testing = none → bit s.ready (6 + a.val) = false → 1200 ≤ s.cycle → s.pins.rstWarmN = true →
         ∃ u, exec (.arraySelfTestDone a pass) s = .next u ∧ bit u.ready (6 + a.val) = true ∧
           (pass = true → bit u.ready (8 + a.val) = true) ∧ (pass = false → (u.arr a).felled = true ∧
             bit u.ready (8 + a.val) = false) ∧
           let ready := s.ready ||| wd (2 ^ (6 + a.val) + 2 ^ (8 + a.val))
           let new := ready &&& ~~~(s.readySent ||| 0x0400)
           (pass = true → bit ready 0 = true → new ≠ 0 →
             ((∀ n ∈ s.notices, n.code = 0x80 → s.readyMark ≠ some (s.cycle, n.tag)) → s.notices.length < 16 →
               u.notices = s.notices ++ [⟨0x80, s.noticeSeq, [ready, new]⟩]) ∧
             (∀ before tag w0 w1, s.notices = before ++ [⟨0x80, tag, [w0, w1]⟩] → s.readyMark = some (s.cycle, tag) →
               (∀ n ∈ before, n.tag ≠ tag) → u.notices = before ++ [⟨0x80, tag, [ready, w1 ||| new]⟩])))) ∧
     (s.core = .clearing → s.warm = none → s.pins.rstWarmN = true →
       let i : Nat := match f with
         | .atp => 0
         | .lm => 2
         | .fc => 3
         | .flm => 4
         | .skd => 5
       let due : Bool := match f with
         | .atp => decide (64 ≤ s.mclk)
         | .lm => decide ((if s.longClear then 2048 else 16) ≤ s.cycle)
         | .fc => decide (64 ≤ s.cycle)
         | .flm => decide (32 ≤ s.cycle)
         | .skd => decide (16 ≤ s.cycle)
       bit s.ready i = false → (due = false → exec (.functionReady f failed) s = .next s) ∧
         (due = true → ∃ u, exec (.functionReady f failed) s = .next u ∧ u.mem = s.mem ∧ u.ready = s.ready ||| wd (2 ^ i) ∧
           u.core = if u.ready &&& 0x003D = 0x003D then .idle else .clearing))) ∧
  (∀ (s : State), s.pending = [] → ∃ u, step s = .next u ∧ u.pending = [] ∧
     let m : Nat := if (s.live || s.divSwitch) && decide (16 ≤ s.mclkFrac + s.clk.div) then 1 else 0
     u.mem = s.mem ∧ u.tiles = s.tiles ∧ u.poison = s.poison ∧ u.cfg = s.cfg ∧ u.core = s.core ∧ u.gpOut = s.gpOut ∧
     u.notices = s.notices ∧ u.tally = s.tally ∧
     u.mclk = s.mclk + m ∧ (s.live = true ∨ s.divSwitch = true → u.mclkFrac = s.mclkFrac + s.clk.div - 16 * m) ∧
     (s.live = false → u.cycle = s.cycle ∧ u.threads = s.threads ∧ u.merge = s.merge ∧ u.ends = s.ends ∧ u.lanes = s.lanes ∧
       (s.divSwitch = false → u.mclkFrac = s.mclkFrac ∧ u.clk = s.clk)) ∧
     (s.live = true → u.cycle = s.cycle + 1 ∧ u.slotCtr = s.slotCtr + 1 ∧ u.cruiseAge = s.cruiseAge + 1 ∧
       u.merge = (if s.core = .faulted then s.merge else s.merge.map (fun e => { e with age := e.age + 1 })) ∧
       u.warm = s.warm.map (fun w => { w with age := w.age + 1 }) ∧
       u.clk.tryCycles = s.clk.tryCycles + (if s.clk.bringup = .tryA ∨ s.clk.bringup = .tryB then 1 else 0)) ∧
     (∀ j, s.clk.freq = some j → s.live = true ∨ s.divSwitch = true →
       let y := j.req.toNat / 8 % 8
       let full := (y = 3 ∨ y = 4) ∧ 2 ^ (j.req.toNat / 64 % 32) ≤ j.ys
       let a : Nat := if s.live then 1 else 0
       let seen (x : Nat) : Nat := if x = 3 then a else if x = 4 then m else 0
       u.clk.freq = some { j with
         age := j.age + a
         begun := j.begun || (decide (¬ full) && (decide (y ≠ 3 ∧ y ≠ 4) || decide (0 < seen y)))
         xs := if j.begun = true ∧ ¬ full then j.xs + seen (j.req.toNat % 8) else j.xs
         ys := if j.begun = true ∧ ¬ full then j.ys + seen y else j.ys }) ∧
     (s.live = true → s.runs = false → u.threads = s.threads ∧ u.ends = s.ends ∧ u.lanes = s.lanes) ∧
     (s.runs = true →
       (∀ t, let th := s.thr t
         let v := u.thr t
         let on := th.st = .running ∨ th.st = .parked
         v.regs = th.regs ∧ v.ctl = th.ctl ∧ v.act = th.act ∧ v.st = th.st ∧ v.pcw = th.pcw ∧ v.ops = th.ops ∧
         v.dla = (if on ∧ th.dla ≠ 0 then th.dla - 1 else th.dla) ∧ v.dlaDue = (th.dlaDue || decide (on ∧ th.dla = 1)) ∧
         v.dlb = (if on ∧ th.dlb ≠ 0 then th.dlb - 1 else th.dlb) ∧ v.dlbDue = (th.dlbDue || decide (on ∧ th.dlb = 1)) ∧
         v.notifyAge = th.notifyAge.bind (fun n => if 65535 ≤ n then none else some (n + 1))) ∧
       (∀ e, (s.fend e).st ≠ .unbound →
         let o := s.thr (endOwner s.cfg e)
         let waits := endDir s.cfg e = true ∧ o.st = .parked ∧ ∃ i, o.park = some ⟨.sendE e, i⟩
         (waits → u.fend e = { s.fend e with stall := (s.fend e).stall + 1 }) ∧ (¬ waits → u.fend e = s.fend e)) ∧
       (∀ n, let l := s.lane n
         u.lane n = if l.st = .running ∧ l.phase = .message then { l with msgWait := l.msgWait + 1 } else l) ∧
       u.stillCtr = (if u.isStill then s.stillCtr + 1 else 0) ∧ (u.isStill = false → u.stillRaised = false)) ∧
     (∀ c lim, s.atpCur = some (c, .commit lim) → u.atpCur = (match s.commitBusy with
       | t :: _ => if lim ≤ u.mclk then some (c, .late t (s.pendClasses t)) else s.atpCur
       | [] => s.atpCur)) ∧
     ((∀ c lim, s.atpCur ≠ some (c, .commit lim)) → u.atpCur = s.atpCur))

/-- R437, R492, R494 to R497: the first delivered cycle of a new clock puts it in force and ends the switch; outside the bring-up, and in
one that finds such threads, every thread that may hold items gets a timing-void item with the kind, Fraina a CLOCK notice, and a
request that asked for an answer the source or divisor that was in force. Local memory and the tiles are unchanged. Log entries 13 and
30 name what here is the model's own reading or choice. -/
def Obligations.ClockSwitchEnds : Prop :=
  ∀ (s : State) (w : Switch), s.pins.pwrOk = true → s.pins.rstColdN = true → s.clk.switch = some w → s.clk.queue = [] →
    s.warmDue = false →
    let k := s.clk
    let root := if w.kind = 1 then k.root else w.root
    let div := if w.kind = 1 then w.div else k.div
    ∃ u, exec .clockSwitchComplete s = .next u ∧ u.clk.root = root ∧ u.clk.div = div ∧ u.clk.switch = none ∧ u.mem = s.mem ∧
      u.tiles = s.tiles ∧
      (w.bringup = false ∨ (∃ t, (s.thr t).takesItems = true) → (∀ t, (s.thr t).takesItems = true →
        (u.thr t).tvoid = some (item 0x60 (BitVec.ofNat 8 (0x80 + w.kind)) 0 0)) ∧
        (s.notices.length < 15 → ⟨0x83, s.noticeSeq, [wd w.kind, wd k.root, wd root, wd div]⟩ ∈ u.notices)) ∧
      (w.kind = 2 → root < 2 → bit u.ready 1 = true ∧ bit u.ready 10 = false ∧ u.clk.monitorOn = true ∧ u.clk.fallback = false) ∧
      (∀ m v, w.svc = none → w.reply = true → s.atpCur = some (m, v) →
        u.atpCur = none ∧ u.gpOut = s.gpOut ++ [m.answer s.ident 0 [wd (if w.kind = 1 then k.div else k.root)]])

/-- R25 to R27, R500, R501, R505: the loss of the supply or RST_COLD_N puts every item at its reset value, but the queue, the pins and what
has left the core; the identifier and the trim set are the words shifted in. On release the lane selects are sampled and CDR-A is
tried. TRIM_SO shifts the ten words out. Log entries 1 and 31 name what here is the model's own reading or choice. -/
def Obligations.ColdResets : Prop :=
  ∀ (s : State) (w : List Word) (fa fb : BitVec 3),
    let held (pins : Pins) (id : CoreId) (tr : Tab Word) : State := { State.reset with
      pending := s.pending, pins := pins, gpOut := s.gpOut, trimSo := s.trimSo, ident := id, trim := tr }
    let started (s : State) : State :=
      { s with cycle := 0, mclk := 0, mclkFrac := 0, clk := { s.clk with bringup := .tryA, tryCycles := 0 } }
    exec .pwrOkFall s = .next (held { s.pins with pwrOk := false } 0 []) ∧
    (s.pins.pwrOk = true → ∃ tr, exec (.rstColdNAssert w) s = .next (held { s.pins with rstColdN := false }
        (BitVec.ofNat 24 ((w.getD 1 0).toNat % 256 * 65536 + (w.getD 0 0).toNat)) tr) ∧
      ∀ i, Tab.get 0 tr i = if i < 8 then w.getD (2 + i) 0 else 0) ∧
    (s.pins.pwrOk = true → exec .pwrOkRise s = .next s) ∧
    (s.pins.pwrOk = false → let s' : State := { s with pins := { s.pins with pwrOk := true } }
      exec .pwrOkRise s = .next (if s.pins.rstColdN then started s' else s')) ∧
    (s.pins.rstColdN = true → exec (.rstColdNRelease fa fb) s = .next s) ∧
    (s.pins.rstColdN = false → let s' : State := { s with
        pins := { s.pins with rstColdN := true }, clk := { s.clk with laneA := fa, laneB := fb } }
      exec (.rstColdNRelease fa fb) s = .next (if s.pins.pwrOk then started s' else s')) ∧
    (s.pins.pwrOk = true → ∃ u, exec .trimSo s = .next u ∧ u = { s with trimSo := u.trimSo } ∧
      u.trimSo = [idLo s.ident, idHi s.ident] ++ (List.range 8).map (fun i => Tab.get 0 s.trim i))

/-- R26, R456, R501 to R503, R509: RST_WARM_N, CORE_RESET_WARM and CORE_CLEAR begin a warm reset, which unbinds every end, stops every lane
and discards the Atpolet queue and an open transaction, and takes the threads out of the entries of the merging buffer; once the
merging buffer has drained, or at the 256th cycle, the core enters CLEARING with the identifier, the trim set, the clock, and, but for
CORE_CLEAR, local memory and the fault log (behind the notices of what was left) kept, and the command is answered. Log entries 1 and
32 name what here is the model's own reading or choice. -/
def Obligations.WarmResets : Prop :=
  ∀ (s : State) (c : AtpCmd),
    let begun (r : Out) (clear : Bool) (cmd : Option AtpCmd) (pins : Pins) : Prop := ∃ u, r = .next u ∧
      u.warm = some ⟨clear, cmd, 0, decide (s.core = .faulted)⟩ ∧ u.pins = pins ∧ u.ends = [] ∧ u.flumeOut = [] ∧ u.ringWrites = [] ∧
      u.landWrites = [] ∧ u.atpQ = [] ∧ u.atpCur = none ∧ u.txn = none ∧ (∀ n, (u.lane n).st = .idle) ∧ u.mem = s.mem ∧
      u.threads = s.threads ∧ u.cfg = s.cfg ∧ u.core = s.core ∧ (∀ m ∈ u.merge, m.threads = []) ∧
      (∀ x m, Tab.find u.tags x = some (.entry m) → m.threads = [])
    let cleared (r : Out) (w : Warm) (log : List (List Word) → Prop) : Prop := ∃ u, r = .next u ∧ u.core = .clearing ∧
      u.warm = none ∧ u.threads = [] ∧ u.cfg = [] ∧
      u.tally = [] ∧ u.tiles = [] ∧ u.arrs = [] ∧ u.decl = [] ∧ u.merge = [] ∧ u.tags = [] ∧ u.lines = [] ∧ u.ident = s.ident ∧
      u.trim = s.trim ∧ u.trimUser = s.trimUser ∧ u.clk.root = s.clk.root ∧ u.clk.div = s.clk.div ∧
      u.ready = (if s.clk.root < 2 then 0x0002 else 0x0400) ∧
      u.mem = (if w.clear then [] else s.mem) ∧ (w.clear = true → u.faultLog = []) ∧ (w.clear = false → log u.faultLog) ∧
      u.gpOut = s.gpOut ++ (match w.cmd with
        | some c => [c.answer s.ident 0 []]
        | none => [])
    (s.pins.rstWarmN = true → s.live = true → s.warm = none →
      begun (exec .rstWarmNAssert s) false none { s.pins with rstWarmN := false }) ∧
    (s.pins.rstWarmN = true → s.pins.pwrOk = true → s.pins.rstColdN = true → s.clk.switch ≠ none → s.warm = none →
      exec .rstWarmNAssert s = .next { s with pins := { s.pins with rstWarmN := false }, warmDue := true }) ∧
    (s.pins.rstWarmN = false → let s' : State := { s with pins := { s.pins with rstWarmN := true } }
      exec .rstWarmNRelease s =
        .next (if s.core = .clearing ∧ s.warm = none then { s' with cycle := 0, mclk := 0, mclkFrac := 0 } else s')) ∧
    (s.starts 0x7E c = true → begun (exec .coreResetWarm s) false (some c) s.pins) ∧
    (s.starts 0x7F c = true → begun (exec .coreClear s) true (some c) s.pins) ∧
    (∀ w, s.live = true → s.warm = some w →
      let left := s.merge ≠ [] ∨ ∃ e ∈ s.tags, e.2.isEntry = true
      (¬ left → cleared (exec .warmDrainComplete s) w (fun l => l = s.faultLog)) ∧
      (left → exec .warmDrainComplete s = .next s) ∧
      (left → 256 ≤ w.age → cleared (exec .warmDrainTimeout s) w (fun l => ∃ new, l = (new ++ s.faultLog).take 32)) ∧
      (left → w.age < 256 → exec .warmDrainTimeout s = .next s))

/-! ## Atpolet -/

/-- R445 to R449, R452: a command that arrives is queued, or answered BUSY when 8 wait; the oldest starts when none is in execution; one
with an opcode that the table does not list is answered UNKNOWN, and one that fails a check that every opcode shares is answered with
the status and results of the first failed check and has no other effect. Log entries 1 and 34 name what here is the model's own
reading or choice. -/
def Obligations.AtpoletStarts : Prop :=
  ∀ (s : State) (src : CoreId) (payload : List Word) (c : AtpCmd), s.live = true → s.warm = none →
    (bit s.ready 0 = true →
      let ok := payload.length ≤ 64 ∧ (payload.getD 0 0).toNat / 256 % 4 = 0
      (¬ ok → exec (.atpArrival src payload) s = .next (s.count 0x2B 1)) ∧
      (ok → s.atpQ.length < 8 → exec (.atpArrival src payload) s = .next { s with atpQ := s.atpQ ++ [⟨src, payload⟩] }) ∧
      (ok → 8 ≤ s.atpQ.length → exec (.atpArrival src payload) s =
        .next { s with gpOut := s.gpOut ++ [AtpCmd.answer ⟨src, payload⟩ s.ident 4 []] })) ∧
    (s.atpCur = none → s.atpQ.head? = some c →
      (opcodeRow c.opcode = none → exec .unknownOpcode s = .next (s.answered c 7 [])) ∧
      (opcodeRow c.opcode ≠ none → exec .unknownOpcode s = .next s) ∧
      ∀ p ∈ ([(0x01, .ident), (0x02, .status), (0x10, .loadBegin), (0x11, .loadWrite), (0x12, .loadEnd), (0x18, .threadStart),
          (0x19, .threadStop), (0x1A, .threadReset), (0x1B, .threadResume), (0x20, .txnBegin), (0x21, .txnSet), (0x22, .txnCommit),
          (0x23, .txnRollback), (0x28, .flumeBind), (0x29, .flumeUnbind), (0x30, .dbgHalt), (0x31, .dbgStep), (0x32, .dbgRead),
          (0x33, .dbgWrite), (0x34, .dbgBreak), (0x35, .dbgWatch), (0x40, .memRead), (0x41, .memWrite), (0x48, .tallyRead),
          (0x49, .faultLogRead), (0x4A, .lastgaspRead), (0x50, .clockSelect 0 0), (0x51, .clockDivide), (0x52, .freqMeasure),
          (0x58, .trimRead), (0x59, .trimWrite), (0x7E, .coreResetWarm), (0x7F, .coreClear)] : List (Nat × Instr)),
        (c.opcode ≠ p.1 → exec p.2 s = .next s) ∧
        (c.opcode = p.1 →
          (c.formBad = true → exec p.2 s = .next (s.answered c 2 [0xFFFF])) ∧
          ∀ st r, s.atpCheck c = some (st, r) → exec p.2 s = .next (s.answered c st r)))

/-- R434, R446, R450, R451, R454, R455, R482, R483, R485: IDENT, STATUS, TALLY_READ, FAULT_LOG_READ, LASTGASP_READ and TRIM_READ answer
what they name and change nothing else, but that TALLY_READ with CLR clears the counters it reads; TRIM_WRITE loads a trim set with a
tolerance, unless the fallback has been declared and the set moves the oscillator. IDENT's revision is an open value (log entry 7). -/
def Obligations.AtpoletQueries : Prop :=
  ∀ (s : State) (c : AtpCmd),
    let p (i : Nat) : Nat := (c.p i).toNat
    let bad (i : Nat) : Out := .next (s.answered c 2 [wd i, 0xFFFF])
    let code (t : Nat) : Nat := match (s.thr t).st with
      | .empty => 0
      | .ready => 1
      | .running => 2
      | .parked => 3
      | .halted => 4
      | .felled => 5
    (s.starts 0x01 c = true → exec .ident s = .next (s.answered c 0 [idLo s.ident, idHi s.ident, 0x0482, Config.revision])) ∧
    (s.starts 0x02 c = true → exec .status s = .next (s.answered c 0 ([wd (s.core.code + (if s.txn = none then 0 else 8) +
        (if s.trimUser then 16 else 0) + 32 * ((Tab.get 0 s.decl 0).toNat % 4)), s.ready, s.noticeSeq] ++
      (List.range 16).map (fun k => wd (code (4 * k) + 16 * code (4 * k + 1) + 256 * code (4 * k + 2) + 4096 * code (4 * k + 3)))))) ∧
    (s.starts 0x48 c = true →
      (p 1 = 0 ∨ 48 < p 1 → exec .tallyRead s = bad 1) ∧
      (1 ≤ p 1 → p 1 ≤ 48 →
        let vals := (List.range (p 1)).map (fun i => if tallyListed (p 0 + i) then Tab.get 0 s.tally (p 0 + i) else 0)
        ∃ u, exec .tallyRead s = .next u ∧ u = { s.answered c 0 (wd (p 1) :: vals) with tally := u.tally } ∧
          (bit (c.word 0) 10 = false → u.tally = s.tally) ∧
          (bit (c.word 0) 10 = true → ∀ i, Tab.get 0 u.tally i = if p 0 ≤ i ∧ i < p 0 + p 1 then 0 else Tab.get 0 s.tally i))) ∧
    (s.starts 0x49 c = true →
      (p 1 = 0 ∨ 4 < p 1 → exec .faultLogRead s = bad 1) ∧
      (1 ≤ p 1 → p 1 ≤ 4 → exec .faultLogRead s = .next (s.answered c 0
        ((List.range (p 1)).flatMap (fun i => s.faultLog.getD (p 0 + i) (List.replicate 12 0)))))) ∧
    (s.starts 0x4A c = true →
      (s.nThr ≤ p 0 → exec .lastgaspRead s = bad 0) ∧
      (p 0 < s.nThr → exec .lastgaspRead s = .next (s.answered c 0
        ((List.range 8).map (fun i => Tab.get 0 (s.thr (p 0)).lastgasp i))))) ∧
    (s.starts 0x58 c = true → exec .trimRead s = .next (s.answered c 0
      ((List.range 8).map (fun i => Tab.get 0 s.trim i) ++ [if s.trimUser then 1 else 0]))) ∧
    (s.starts 0x59 c = true →
      let moves := bit s.ready 10 = true ∧ p 0 % 4096 ≠ (Tab.get 0 s.trim 0).toNat % 4096
      (p 3 % 32 = 0 → exec .trimWrite s = bad 3) ∧
      (p 3 % 32 ≠ 0 → moves → exec .trimWrite s = .next (s.answered c 9 [])) ∧
      (p 3 % 32 ≠ 0 → ¬ moves → ∃ u, exec .trimWrite s = .next u ∧ u = { s.answered c 0 [] with trim := u.trim, trimUser := true } ∧
        ∀ i < 8, Tab.get 0 u.trim i = c.p i))

/-- R11, R42, R147, R277, R354, R355, R375, R405, R413, R435, R457 to R463: LOAD_BEGIN opens a load with the declared resources; LOAD_WRITE
writes words of local memory or of the image; LOAD_END refuses an image that does not fit or is not consistent, and else the image is
in force, its declared threads are READY and the ends it binds are OPEN. FLUME_BIND binds an UNBOUND end with the words given and
FLUME_UNBIND unbinds one. Log entry 35 names what here is the model's own reading or choice. -/
def Obligations.LoadsAndBindings : Prop :=
  ∀ (s : State) (c : AtpCmd),
    let p (i : Nat) : Nat := (c.p i).toNat
    let bad (i : Nat) (a : Word) : Out := .next (s.answered c 2 [wd i, a])
    (s.starts 0x10 c = true → ∃ u, exec .loadBegin s = .next u ∧ (∀ i < 10, Tab.get 0 u.declNew i = c.p i) ∧
      u = { s.answered c 0 [] with core := .loading, image := [], clkWritten := false, declNew := u.declNew }) ∧
    (s.starts 0x11 c = true →
      let ws := c.params.drop 2
      (1 < p 0 → exec .loadWrite s = bad 0 0xFFFF) ∧
      (p 0 = 0 → 65536 < p 1 + ws.length → exec .loadWrite s = bad 1 0xFFFF) ∧
      (p 0 = 0 → p 1 + ws.length ≤ 65536 → exec .loadWrite s = .next { s.answered c 0 [] with mem := (s.msetList (p 1) ws).mem }) ∧
      (∀ k < ws.length, p 0 = 1 → (∀ j < k, cfgHas (p 1 + j) = true) → cfgHas (p 1 + k) = false →
        exec .loadWrite s = bad 1 (wd (p 1 + k))) ∧
      (p 0 = 1 → (∀ k < ws.length, cfgHas (p 1 + k) = true) →
        ∃ u, exec .loadWrite s = .next u ∧ u = { s.answered c 0 [] with image := u.image, clkWritten := u.clkWritten } ∧
          ∀ a, cfgAt u.image a = if p 1 ≤ a ∧ a < p 1 + ws.length then wd ((ws.getD (a - p 1) 0).toNat &&& cfgMask a)
            else cfgAt s.image a)) ∧
    (s.starts 0x12 c = true →
      (∀ st r, s.loadRefusal = some (st, r) → exec .loadEnd s = .next (s.answered c st r)) ∧
      (s.loadRefusal = none → ∃ u, exec .loadEnd s = .next u ∧ u.core = .loaded ∧ u.cfg = s.image ∧ u.decl = s.declNew ∧
        u.mem = s.mem ∧
        u.gpOut = s.gpOut ++ [c.answer s.ident 0 []] ∧
        (∀ t < 64, (u.thr t).st = (if bit (declW s.image t 0) 13 then .ready else .empty) ∧
          (bit (declW s.image t 0) 13 = true → (u.thr t).wt = (declW s.image t 0).setWidth 13 ∧ (u.thr t).regs = [])) ∧
        (∀ e < 32, bit (endW s.image e 6) 0 = true → u.fend e = { FEnd.init with
          st := .opened, credit := if endDir s.image e then (endW s.image e 4).toNat % 128 else 0 }))) ∧
    (s.starts 0x28 c = true →
      let e := p 0
      let cfg := cfgWrites s.cfg (0x0100 + 8 * e) (c.params.drop 1 ++ [1])
      (32 ≤ e → exec .flumeBind s = bad 0 0xFFFF) ∧
      (∀ st r, s.bindRefusal e cfg = some (st, r) → exec .flumeBind s = .next (s.answered c st r)) ∧
      (s.bindRefusal e cfg = none → exec .flumeBind s = .next (({ s.answered c 0 [] with cfg := cfg } : State).setEnd e
        { FEnd.init with st := .opened, credit := if endDir cfg e then endCred0 cfg e else 0 }))) ∧
    (s.starts 0x29 c = true →
      let e := p 0
      (32 ≤ e → exec .flumeUnbind s = bad 0 0xFFFF) ∧
      (e < 32 → ∃ u, exec .flumeUnbind s = .next u ∧ (u.fend e).st = .unbound ∧ bit (endW u.cfg e 6) 0 = false ∧ u.mem = s.mem ∧
        ((s.fend e).st = .unbound → u.flumeOut = s.flumeOut) ∧
        ((s.fend e).st = .opened ∨ (s.fend e).st = .peerClosed → s.flumeOut.length < u.flumeOut.length)))

/-- R220, R464 to R468: TXN_BEGIN opens a transaction, TXN_SET stages words, TXN_ROLLBACK drops them, TXN_COMMIT checks the configuration
that would result and holds the affected threads until nothing of theirs is pending; then every staged item takes effect in one cycle,
a tile whose thread changes is cleared, and DONE is answered; once its limit has found a thread pending it is answered BUSY with that
thread and its classes, and stays open. Log entries 1, 2 and 35 name what here is the model's own reading or choice. -/
def Obligations.Transactions : Prop :=
  ∀ (s : State) (c : AtpCmd),
    let p (i : Nat) : Nat := (c.p i).toNat
    let bad (i : Nat) (a : Word) : Out := .next (s.answered c 2 [wd i, a])
    (s.starts 0x20 c = true → exec .txnBegin s = .next { s.answered c 0 [] with txn := some [] }) ∧
    (s.starts 0x23 c = true → exec .txnRollback s = .next { s.answered c 0 [] with txn := none }) ∧
    (∀ m, s.starts 0x21 c = true → s.txn = some m →
      let ws := c.params.drop 1
      (∀ k < ws.length, (∀ j < k, cfgStageable (p 0 + j) = true) → cfgStageable (p 0 + k) = false →
        exec .txnSet s = bad 0 (wd (p 0 + k))) ∧
      ((∀ k < ws.length, cfgStageable (p 0 + k) = true) →
        (256 < (stageWords m (p 0) ws).length → exec .txnSet s = .next (s.answered c 3 [0x0C])) ∧
        ((stageWords m (p 0) ws).length ≤ 256 → ∃ m', exec .txnSet s = .next { s.answered c 0 [] with txn := some m' } ∧
          ∀ a, Tab.find m' a = if p 0 ≤ a ∧ a < p 0 + ws.length then some (ws.getD (a - p 0) 0) else Tab.find m a))) ∧
    (s.starts 0x22 c = true →
      (p 0 = 0 → exec .txnCommit s = bad 0 0xFFFF) ∧
      (p 0 ≠ 0 → (∀ st r, stage3 s.result s.ident s.nThr s.warden s.boundAfter = some (st, r) →
          exec .txnCommit s = .next (s.answered c st r)) ∧
        (stage3 s.result s.ident s.nThr s.warden s.boundAfter = none → ∃ u, exec .txnCommit s = .next u ∧
          u = { s.popped with atpCur := some (c, .commit (s.mclk + p 0)), threads := u.threads } ∧
          ∀ t, u.thr t = { s.thr t with
            commitHold := (s.thr t).commitHold || decide (t ∈ s.affected ∧ (s.thr t).st ≠ .empty) }))) ∧
    (∀ m lim, s.live = true → s.warm = none → s.atpCur = some (m, .commit lim) →
      (s.commitBusy = [] → ∃ u, exec .txnCommitCycle s = .next u ∧ u.cfg = s.result ∧ u.txn = none ∧ u.atpCur = none ∧ u.mem = s.mem ∧
        u.gpOut = s.gpOut ++ [m.answer s.ident 0 []] ∧ (∀ t, (u.thr t).commitHold = false) ∧
        ∀ q < 16, ∀ i < 512, u.tget q i = if tileOwner s.cfg q = tileOwner s.result q then s.tget q i else pw0) ∧
      (s.commitBusy ≠ [] → exec .txnCommitCycle s = .next s) ∧
      exec .txnCommitTimeout s = .next s) ∧
    (∀ m t k, s.live = true → s.warm = none → s.atpCur = some (m, .late t k) →
      exec .txnCommitCycle s = .next s ∧
      ∃ u, exec .txnCommitTimeout s = .next u ∧ u.cfg = s.cfg ∧ u.txn = s.txn ∧
        u.atpCur = none ∧ u.gpOut = s.gpOut ++ [m.answer s.ident 4 [wd t, wd k]] ∧ ∀ t, (u.thr t).commitHold = false)

/-- R76, R98, R220, R453, R459, R472, R475, R478, R513: THREAD_START runs a READY thread from its declared values; THREAD_STOP and DBG_HALT
ask for a halt and THREAD_STOP_DONE answers when the thread has stopped with no long operation or far store pending, or late;
THREAD_RESET makes a thread READY with every register at its reset value and its tiles clear; THREAD_RESUME and DBG_STEP run a HALTED
thread. A thread in another state is refused with its state. Log entries 1, 36 and 58 name what here is the model's own reading or
choice. -/
def Obligations.AtpoletThreads : Prop :=
  ∀ (s : State) (c : AtpCmd),
    let t := (c.p 0).toNat
    let th := s.thr t
    let out : Out := .next (s.answered c 2 [0, 0xFFFF])
    let refused : Out := .next (s.answered c 1 [wd s.core.code, wd th.st.code])
    let needs (op : Nat) (i : Instr) (ok : Prop) : Prop := s.starts op c = true →
      (s.nThr ≤ t → exec i s = out) ∧ (t < s.nThr → ¬ ok → exec i s = refused)
    let up := th.st = .running ∨ th.st = .parked ∨ th.st = .halted
    needs 0x18 .threadStart (th.st = .ready) ∧ needs 0x1A .threadReset (th.st ≠ .empty) ∧ needs 0x1B .threadResume (th.st = .halted) ∧
    needs 0x30 .dbgHalt up ∧ needs 0x31 .dbgStep (th.st = .halted) ∧
    (s.starts 0x18 c = true → t < s.nThr → th.st = .ready →
      let d (i : Nat) : Word := declW s.cfg t i
      ∃ u, exec .threadStart s = .next u ∧ (u.thr t).st = .running ∧ (u.thr t).pc = d 1 ∧ (u.thr t).useW 0x06 = d 2 ∧
        (u.thr t).useW 0x07 = d 3 ∧ (u.thr t).useW 0x08 = wd ((d 4).toNat &&& 0xFFC0) ∧ (u.thr t).useW 0x0A = d 5 ∧
        (u.thr t).useW 0x28 = d 6 ∧ (u.thr t).useW 0x29 = d 7 ∧ (u.thr t).useW 0x0F = d 8 ∧ (u.thr t).useW 0x10 = d 9 ∧
        (u.thr t).useW 0x0D = wd ((d 13).toNat &&& 0xFFFC) ∧ (u.thr t).regs = th.regs ∧ u.mem = s.mem ∧
        u.core = (if s.core = .loaded then .running else s.core) ∧ (∀ r, r ≠ t → u.thr r = s.thr r) ∧
        u.gpOut = s.gpOut ++ [c.answer s.ident 0 []]) ∧
    (s.starts 0x19 c = true → t < s.nThr → c.p 1 ≠ 0 → up → exec .threadStop s = .next
      (let s' : State := { s.popped with
         atpCur := some (c, .stop t (c.p 1).toNat (if th.st = .halted then some s.mclk else none)) }
       if th.st = .halted then s' else s'.modThr t (fun th => { th with haltReq := some .threadStop }))) ∧
    (∀ m r p1 since, s.live = true → s.warm = none → s.atpCur = some (m, .stop r p1 since) →
      let pend := s.pendClasses r
      let answered (w : Word) : Out := .next { s with atpCur := none, gpOut := s.gpOut ++ [m.answer s.ident 0 [w]] }
      exec .threadStopDone s = (match since with
        | none => .next s
        | some m0 => if pend % 0x100 = 0 then answered 0 else if m0 + p1 ≤ s.mclk then answered (wd pend) else .next s)) ∧
    (s.starts 0x1A c = true → t < s.nThr → th.st ≠ .empty → ∃ u, exec .threadReset s = .next u ∧ (u.thr t).st = .ready ∧
      (u.thr t).regs = [] ∧ (u.thr t).ops = [] ∧ (u.thr t).wt = th.wt ∧ (u.thr t).lastgasp = th.lastgasp ∧ (u.thr t).sync = none ∧
      (u.thr t).mask = 7 ∧ (u.thr t).sup = true ∧ u.mem = s.mem ∧
      ∀ q < 16, ∀ i < 512, u.tget q i = if tileOwner s.cfg q = some t then pw0 else s.tget q i) ∧
    (s.starts 0x1B c = true → t < s.nThr → th.st = .halted → exec .threadResume s = .next ((s.answered c 0 []).modThr t (fun th =>
      { th with st := .running, stepping := false, skipBreak := true, skipWatch := true }))) ∧
    (s.starts 0x30 c = true → t < s.nThr → up → exec .dbgHalt s = .next
      (if th.st = .halted then s.answered c 0 [th.pc]
       else { s.popped with atpCur := some (c, .halt t) }.modThr t (fun th => { th with haltReq := some .dbgHalt }))) ∧
    (s.starts 0x31 c = true → t < s.nThr → th.st = .halted → exec .dbgStep s = .next
      ({ s.popped with atpCur := some (c, .step t) }.modThr t (fun th =>
        { th with st := .running, stepping := true, skipBreak := true, skipWatch := true })))

/-- R453, R454, R476, R477, R479 to R481: DBG_READ and MEM_READ answer the words with one mask of parity failures for each 16; DBG_WRITE
writes registers, shapes or tile words of a thread that is READY or HALTED; DBG_BREAK and DBG_WATCH set a breakpoint or a watchpoint;
MEM_WRITE writes its words and no other. Log entry 36 names what here is the model's own reading or choice. -/
def Obligations.AtpoletDebug : Prop :=
  ∀ (s : State) (c : AtpCmd),
    let p (i : Nat) : Nat := (c.p i).toNat
    let bad (i : Nat) : Out := .next (s.answered c 2 [wd i, 0xFFFF])
    let words (l : List ParWord) : List Word := wd l.length :: l.map (·.d) ++
      (List.range ((l.length + 15) / 16)).map (fun k => wd (((List.range 16).map (fun i =>
        match l[16 * k + i]? with
        | some w => if parOk w then 0 else 2 ^ i
        | none => 0)).sum))
    let sp := p 0
    let ob := p 1
    let quiet (t : Nat) : Prop := (s.thr t).st = .ready ∨ (s.thr t).st = .halted
    let free : Prop := ∀ t < 64, sp = 5 → tileOwner s.cfg ob = some t → quiet t
    (s.starts 0x32 c = true →
      (5 < sp → exec .dbgRead s = bad 0) ∧ (sp ≤ 5 → s.spaceSize sp ≤ ob → exec .dbgRead s = bad 1) ∧
      (sp ≤ 5 → ob < s.spaceSize sp → p 3 = 0 ∨ 48 < p 3 → exec .dbgRead s = bad 3) ∧
      (sp ≤ 5 → ob < s.spaceSize sp → 1 ≤ p 3 → p 3 ≤ 48 → free → exec .dbgRead s = .next (s.answered c 0 (words
        ((List.range (p 3)).map (fun k => if dbgListed sp (p 2 + k) then s.dbgWord sp ob (p 2 + k) else pw0)))))) ∧
    (s.starts 0x33 c = true → sp ≤ 5 → ob < s.spaceSize sp →
      let ws := c.params.drop 3
      (∀ k < ws.length, (∀ j < k, dbgListed sp (p 2 + j) = true) → dbgListed sp (p 2 + k) = false → exec .dbgWrite s = bad 2) ∧
      ((∀ k < ws.length, dbgListed sp (p 2 + k) = true) → (sp ≤ 2 → quiet ob) → free →
        (∀ k < ws.length, dbgDenied sp (p 2 + k) = true → exec .dbgWrite s = .next (s.answered c 9 [])) ∧
        ((∀ k < ws.length, dbgDenied sp (p 2 + k) = false) → ∃ u, exec .dbgWrite s = .next u ∧ u.mem = s.mem ∧
          u.gpOut = s.gpOut ++ [c.answer s.ident 0 []] ∧
          (sp = 0 → u.tiles = s.tiles ∧ ∀ r, (u.thr ob).regP r =
            if p 2 ≤ r ∧ r < p 2 + ws.length then pw (ws.getD (r - p 2) 0) else (s.thr ob).regP r) ∧
          (sp = 2 → ∀ r, (u.thr ob).shape r = if p 2 ≤ r ∧ r < p 2 + ws.length then ws.getD (r - p 2) 0 else (s.thr ob).shape r) ∧
          (sp = 5 → u.threads = s.threads ∧ ∀ q < 16, ∀ i < 512, u.tget q i =
            if q = ob ∧ p 2 ≤ i ∧ i < p 2 + ws.length then pw (ws.getD (i - p 2) 0) else s.tget q i)))) ∧
    (s.starts 0x34 c = true →
      (s.nThr ≤ p 0 / 32 % 64 → exec .dbgBreak s = bad 0) ∧
      (p 0 / 32 % 64 < s.nThr → exec .dbgBreak s =
        .next { s.answered c 0 [] with brks := Tab.put s.brks (p 0 % 4) ⟨c.p 0, c.p 1, 0⟩ })) ∧
    (s.starts 0x35 c = true →
      (s.nThr ≤ p 0 / 16 % 64 → exec .dbgWatch s = bad 0) ∧
      (p 0 / 16 % 64 < s.nThr → p 2 < p 1 → exec .dbgWatch s = bad 1) ∧
      (p 0 / 16 % 64 < s.nThr → p 1 ≤ p 2 → exec .dbgWatch s =
        .next { s.answered c 0 [] with watches := Tab.put s.watches (p 0 % 2) ⟨c.p 0, c.p 1, c.p 2⟩ })) ∧
    (s.starts 0x40 c = true →
      (p 1 = 0 ∨ 48 < p 1 → exec .memRead s = bad 1) ∧
      (1 ≤ p 1 → p 1 ≤ 48 → 65536 < p 0 + p 1 → exec .memRead s = bad 0) ∧
      (1 ≤ p 1 → p 1 ≤ 48 → p 0 + p 1 ≤ 65536 → exec .memRead s = .next
        (if bit s.ready 2 then s.answered c 0 (words ((List.range (p 1)).map (fun i => s.mget (p 0 + i)))) else s.answered c 4 []))) ∧
    (s.starts 0x41 c = true →
      let ws := c.params.drop 1
      (65536 < p 0 + ws.length → exec .memWrite s = bad 0) ∧
      (p 0 + ws.length ≤ 65536 → bit s.ready 2 = false → exec .memWrite s = .next (s.answered c 4 [])) ∧
      (p 0 + ws.length ≤ 65536 → bit s.ready 2 = true →
        ∃ u, exec .memWrite s = .next u ∧ u = { s.answered c 0 [] with mem := u.mem } ∧
          ∀ b < 65536, u.mget b = if p 0 ≤ b ∧ b < p 0 + ws.length then pw (ws.getD (b - p 0) 0) else s.mget b))

/-- R25, R454, R494 to R496, R499: CLOCK_SELECT of the source in force is answered at once, of the understory oscillator begins its switch,
of a CDR waits for its lock, each with the lane selects of the other CDRs sampled; CLOCK_DIVIDE of another divisor begins a switch;
FREQ_MEASURE begins a count, or is answered BUSY. Log entries 30, 34 and 55 name what here is the model's own reading or choice. -/
def Obligations.AtpoletClocks : Prop :=
  ∀ (s : State) (c : AtpCmd) (fa fb : BitVec 3),
    let n := (c.p 0).toNat
    let k := s.clk
    let bad : Out := .next (s.answered c 2 [0, 0xFFFF])
    let waits (w : AtpWait) (k : Clk) : State := { s.popped with atpCur := some (c, w), clk := k }
    (s.starts 0x50 c = true →
      let k' : Clk := { k with laneA := if n = 0 ∧ k.root = 0 then k.laneA else fa, laneB := if n = 1 ∧
        k.root = 1 then k.laneB else fb }
      (2 < n → exec (.clockSelect fa fb) s = bad) ∧
      (n ≤ 2 → n = k.root → exec (.clockSelect fa fb) s =
        .next { s.answered c 0 [wd n] with clk := { k' with monitorOn := if n = 2 then k.monitorOn else true } }) ∧
      (n = 2 → n ≠ k.root → exec (.clockSelect fa fb) s = .next { waits .clock
          { k' with selUnder := true, switch := some ⟨2, 2, 0, none, true, false⟩, queue := [] } with ready := setFld s.ready 10 10 1 }) ∧
      (n < 2 → n ≠ k.root → exec (.clockSelect fa fb) s =
        .next (waits .clock { k' with selWait := some n, monitorOn := decide (k.root < 2) }))) ∧
    (s.starts 0x51 c = true →
      (n < 2 ∨ 4 < n → exec .clockDivide s = bad) ∧
      (2 ≤ n → n ≤ 4 → n = k.div → exec .clockDivide s = .next { s.answered c 0 [wd n] with clk := { k with queue := [] } }) ∧
      (2 ≤ n → n ≤ 4 → n ≠ k.div → exec .clockDivide s =
        .next (waits .clock { k with switch := some ⟨1, 0, n, none, true, false⟩, queue := [] }))) ∧
    (s.starts 0x52 c = true →
      (freqOk (c.p 0) = false → exec .freqMeasure s = bad) ∧
      (freqOk (c.p 0) = true → k.freq ≠ none → exec .freqMeasure s = .next (s.answered c 4 [])) ∧
      (freqOk (c.p 0) = true → k.freq = none →
        exec .freqMeasure s = .next (waits .freq { k with freq := some ⟨none, c.p 0, false, 0, 0, 0⟩ })))

/-! ## The queues -/

/-- R156, R166, R436, R446, R448, R483: whatever commands arrive, every step keeps the bounds of the block's queues: at most 16 far
accesses that wait to be sent, 16 far request tags, 4 entries in the merging buffer, 8 warden reports, 16 notices, 32 entries in the
fault log and 8 Atpolet commands. Of the far accesses, one that waits for a fill that was sent is not counted, which is the model's
choice (log entry 42). -/
def Obligations.StepKeepsBounds : Prop :=
  ∀ (s s' : State), s.bounded = true → step s = .next s' → s'.bounded = true
end

