-- ==== Sys2Proof/Laws/Arrays.lean ====
section
/-!
SUPPORT. Which pass PASS_VERDICT takes.
-/

namespace Sys2Proof.Machine

/-- The pass whose verdict comes next is one of the slot's that wait for it, and no other of those is due before it (R261). -/
theorem Arr.nextVerdict_spec {x : Arr} {slot : Nat} {p : Pass} (h : x.nextVerdict slot = some p) :
    (p ∈ x.passes ∧ p.slot = slot ∧ p.phase = .verdict) ∧
    ∀ q ∈ x.passes, q.slot = slot → q.phase = .verdict → p.vAt ≤ q.vAt := by
  let f : Option Pass → Pass → Option Pass := fun b q => match b with
    | none => some q
    | some r => if q.vAt < r.vAt then some q else some r
  have key : ∀ (l : List Pass) (b : Option Pass), l.foldl f b = some p →
      (b = some p ∨ p ∈ l) ∧ (∀ r, b = some r → p.vAt ≤ r.vAt) ∧ ∀ q ∈ l, p.vAt ≤ q.vAt := by
    intro l
    induction l with
    | nil => intro b hb; exact ⟨.inl hb, by intro r hr; rw [List.foldl_nil, hr] at hb; cases hb; exact Nat.le_refl _, by simp⟩
    | cons q l ih =>
      intro b hb
      obtain ⟨h1, h2, h3⟩ := ih (f b q) hb
      cases b with
      | none =>
        have hq := h2 q rfl
        refine ⟨.inr ?_, by simp, ?_⟩
        · rcases h1 with h1 | h1
          · cases h1; simp
          · simp [h1]
        · intro r hr; rcases List.mem_cons.1 hr with rfl | hr
          · exact hq
          · exact h3 r hr
      | some r =>
        have hf : f (some r) q = if q.vAt < r.vAt then some q else some r := rfl
        by_cases hlt : q.vAt < r.vAt
        · rw [hf, if_pos hlt] at h1 h2
          have hq := h2 q rfl
          refine ⟨.inr ?_, ?_, ?_⟩
          · rcases h1 with h1 | h1
            · cases h1; simp
            · simp [h1]
          · intro r' hr'; cases hr'; omega
          · intro r' hr'; rcases List.mem_cons.1 hr' with rfl | hr'
            · exact hq
            · exact h3 r' hr'
        · rw [hf, if_neg hlt] at h1 h2
          have hq := h2 r rfl
          refine ⟨?_, ?_, ?_⟩
          · rcases h1 with h1 | h1
            · exact .inl h1
            · exact .inr (by simp [h1])
          · intro r' hr'; cases hr'; exact hq
          · intro r' hr'; rcases List.mem_cons.1 hr' with rfl | hr'
            · omega
            · exact h3 r' hr'
  obtain ⟨h1, -, h3⟩ := key _ none h
  have hm : p ∈ x.passes.filter (fun q => decide (q.slot = slot) && decide (q.phase = .verdict)) := by
    rcases h1 with h1 | h1
    · cases h1
    · exact h1
  refine ⟨by simpa using hm, fun q hq hs hp => h3 q (by simp [hq, hs, hp])⟩

end Sys2Proof.Machine
end

