-- ==== Sys2Proof/Laws/Tab.lean ====
section
/-!
SUPPORT. Laws of tables: what a read answers after a write, and that every operation keeps the canonical form.
-/
namespace Sys2Proof.Machine

variable {α : Type}

@[simp] theorem Tab.find_nil (k : Nat) : Tab.find ([] : Tab α) k = none := rfl

@[simp] theorem Tab.find_put_same (m : Tab α) (k : Nat) (v : α) : Tab.find (Tab.put m k v) k = some v := by
  induction m with
  | nil => simp [Tab.put, Tab.find]
  | cons e m ih =>
    obtain ⟨k', v'⟩ := e
    simp only [Tab.put]
    split
    · simp [Tab.find]
    · split <;> simp_all [Tab.find]

theorem Tab.find_put_other (m : Tab α) (k j : Nat) (v : α) (h : j ≠ k) : Tab.find (Tab.put m k v) j = Tab.find m j := by
  induction m with
  | nil => simp [Tab.put, Tab.find, Ne.symm h]
  | cons e m ih =>
    obtain ⟨k', v'⟩ := e
    simp only [Tab.put]
    split
    · subst_vars; simp [Tab.find, Ne.symm h]
    · split
      · simp [Tab.find, Ne.symm h]
      · simp [Tab.find, ih]

@[simp] theorem Tab.get_put_same (d : α) (m : Tab α) (k : Nat) (v : α) : Tab.get d (Tab.put m k v) k = v := by
  simp [Tab.get]

theorem Tab.get_put_other (d : α) (m : Tab α) (k j : Nat) (v : α) (h : j ≠ k) :
    Tab.get d (Tab.put m k v) j = Tab.get d m j := by
  simp [Tab.get, Tab.find_put_other m k j v h]

/-- A read after one write: the written value at its index, the old value elsewhere. -/
theorem Tab.get_put (d : α) (m : Tab α) (k j : Nat) (v : α) :
    Tab.get d (Tab.put m k v) j = if j = k then v else Tab.get d m j := by
  split
  · subst_vars; simp
  · exact Tab.get_put_other d m k j v ‹_›

/-- The second of two writes of one index stands. -/
@[simp] theorem Tab.put_put (m : Tab α) (k : Nat) (v w : α) : Tab.put (Tab.put m k v) k w = Tab.put m k w := by
  induction m with
  | nil => simp [Tab.put]
  | cons e m ih =>
    obtain ⟨k', v'⟩ := e
    simp only [Tab.put]
    split
    · simp [Tab.put]
    · split
      · simp [Tab.put]
      · rename_i h1 h2
        simp [Tab.put, h1, h2, ih]

theorem Tab.find_filter (m : Tab α) (q : Nat → Bool) (k : Nat) :
    Tab.find (m.filter (fun e => q e.1)) k = if q k then Tab.find m k else none := by
  induction m with
  | nil => simp
  | cons e m ih =>
    obtain ⟨k', v'⟩ := e
    by_cases hk : k' = k
    · subst hk
      by_cases hq : q k' = true <;> simp [List.filter, hq, Tab.find, ih]
    · by_cases hq : q k' = true
      · simp [List.filter, hq, Tab.find, hk, ih]
      · simp [List.filter, hq, Tab.find, hk, ih]

theorem Tab.find_del (m : Tab α) (k j : Nat) : Tab.find (Tab.del m k) j = if j = k then none else Tab.find m j := by
  have := Tab.find_filter m (fun i => decide (i ≠ k)) j
  unfold Tab.del
  rw [this]
  by_cases h : j = k <;> simp [h]

theorem Tab.mem_put (m : Tab α) (k : Nat) (v : α) (e : Nat × α) (h : e ∈ Tab.put m k v) : e = (k, v) ∨ e ∈ m := by
  induction m with
  | nil => simpa [Tab.put] using h
  | cons x m ih =>
    obtain ⟨k', v'⟩ := x
    simp only [Tab.put] at h
    split at h
    · rcases List.mem_cons.1 h with h | h
      · exact .inl h
      · exact .inr (List.mem_cons_of_mem _ h)
    · split at h
      · rcases List.mem_cons.1 h with h | h
        · exact .inl h
        · exact .inr h
      · rcases List.mem_cons.1 h with h | h
        · exact .inr (h ▸ List.mem_cons_self)
        · rcases ih h with h | h
          · exact .inl h
          · exact .inr (List.mem_cons_of_mem _ h)

section
variable [DecidableEq α]

/-- A read after a write of the canonical form. -/
theorem Tab.get_set (d : α) (m : Tab α) (k j : Nat) (v : α) :
    Tab.get d (Tab.set d m k v) j = if j = k then v else Tab.get d m j := by
  unfold Tab.set
  split
  · rename_i hv
    by_cases hj : j = k <;> simp [Tab.get, Tab.find_del, hj, hv]
  · exact Tab.get_put d m k j v

@[simp] theorem Tab.get_set_same (d : α) (m : Tab α) (k : Nat) (v : α) : Tab.get d (Tab.set d m k v) k = v := by
  simp [Tab.get_set]

theorem Tab.get_set_other (d : α) (m : Tab α) (k j : Nat) (v : α) (h : j ≠ k) :
    Tab.get d (Tab.set d m k v) j = Tab.get d m j := by
  simp [Tab.get_set, h]

theorem Tab.wf_cons (d : α) (k : Nat) (v : α) (m : Tab α) :
    Tab.wf d ((k, v) :: m) = true ↔ v ≠ d ∧ (∀ e ∈ m, k < e.1) ∧ Tab.wf d m = true := by
  simp [Tab.wf, and_assoc]

theorem Tab.wf_filter (d : α) (m : Tab α) (q : Nat × α → Bool) (h : Tab.wf d m = true) : Tab.wf d (m.filter q) = true := by
  induction m with
  | nil => rfl
  | cons e m ih =>
    obtain ⟨k, v⟩ := e
    rw [Tab.wf_cons] at h
    by_cases hq : q (k, v) = true
    · simp only [List.filter, hq]
      rw [Tab.wf_cons]
      exact ⟨h.1, fun e he => h.2.1 e (List.mem_filter.1 he).1, ih h.2.2⟩
    · simp only [List.filter, hq]
      exact ih h.2.2

theorem Tab.wf_del (d : α) (m : Tab α) (k : Nat) (h : Tab.wf d m = true) : Tab.wf d (Tab.del m k) = true :=
  Tab.wf_filter d m _ h

theorem Tab.wf_put (d : α) (m : Tab α) (k : Nat) (v : α) (hv : v ≠ d) (h : Tab.wf d m = true) :
    Tab.wf d (Tab.put m k v) = true := by
  induction m with
  | nil => simp [Tab.put, Tab.wf, hv]
  | cons x m ih =>
    obtain ⟨k', v'⟩ := x
    rw [Tab.wf_cons] at h
    simp only [Tab.put]
    split
    · subst_vars
      rw [Tab.wf_cons]
      exact ⟨hv, h.2.1, h.2.2⟩
    · split
      · rw [Tab.wf_cons, Tab.wf_cons]
        refine ⟨hv, ?_, h⟩
        intro e he
        rcases List.mem_cons.1 he with he | he
        · subst he; assumption
        · exact Nat.lt_trans ‹_› (h.2.1 e he)
      · rw [Tab.wf_cons]
        refine ⟨h.1, ?_, ih h.2.2⟩
        intro e he
        rcases Tab.mem_put m k v e he with he | he
        · subst he; simp only; omega
        · exact h.2.1 e he

/-- A write keeps the canonical form. -/
theorem Tab.wf_set (d : α) (m : Tab α) (k : Nat) (v : α) (h : Tab.wf d m = true) : Tab.wf d (Tab.set d m k v) = true := by
  unfold Tab.set
  split
  · exact Tab.wf_del d m k h
  · exact Tab.wf_put d m k v ‹_› h

theorem Tab.wf_setList (d : α) (vs : List α) (m : Tab α) (k : Nat) (h : Tab.wf d m = true) :
    Tab.wf d (Tab.setList d m k vs) = true := by
  induction vs generalizing m k with
  | nil => exact h
  | cons v vs ih => exact ih _ _ (Tab.wf_set d m k v h)

end

end Sys2Proof.Machine
end

