-- ==== Sys2Proof/Laws/State.lean ====
section
/-!
SUPPORT. One law per field per update of the state and of a thread, each true by unfolding, so that no proof unfolds a record
update; then what a unit reads as after a write of a unit.
-/
namespace Sys2Proof.Machine

section
variable (s : State) (t a e n x i p : Nat) (th : Thread) (ar : Arr) (fe : FEnd) (ln : Lane) (q : List TileOp) (w : Word)
  (ft : Thread → Thread) (fa : Arr → Arr) (fE : FEnd → FEnd) (fl : Lane → Lane) (b : Bool)


@[simp] theorem State.setThr_pending : (s.setThr t th).pending = s.pending := rfl
@[simp] theorem State.setThr_pins : (s.setThr t th).pins = s.pins := rfl
@[simp] theorem State.setThr_ident : (s.setThr t th).ident = s.ident := rfl
@[simp] theorem State.setThr_trim : (s.setThr t th).trim = s.trim := rfl
@[simp] theorem State.setThr_trimUser : (s.setThr t th).trimUser = s.trimUser := rfl
@[simp] theorem State.setThr_trimSo : (s.setThr t th).trimSo = s.trimSo := rfl
@[simp] theorem State.setThr_core : (s.setThr t th).core = s.core := rfl
@[simp] theorem State.setThr_faultCause : (s.setThr t th).faultCause = s.faultCause := rfl
@[simp] theorem State.setThr_ready : (s.setThr t th).ready = s.ready := rfl
@[simp] theorem State.setThr_readySent : (s.setThr t th).readySent = s.readySent := rfl
@[simp] theorem State.setThr_readyMark : (s.setThr t th).readyMark = s.readyMark := rfl
@[simp] theorem State.setThr_cycle : (s.setThr t th).cycle = s.cycle := rfl
@[simp] theorem State.setThr_mclk : (s.setThr t th).mclk = s.mclk := rfl
@[simp] theorem State.setThr_mclkFrac : (s.setThr t th).mclkFrac = s.mclkFrac := rfl
@[simp] theorem State.setThr_slotCtr : (s.setThr t th).slotCtr = s.slotCtr := rfl
@[simp] theorem State.setThr_stillCtr : (s.setThr t th).stillCtr = s.stillCtr := rfl
@[simp] theorem State.setThr_stillRaised : (s.setThr t th).stillRaised = s.stillRaised := rfl
@[simp] theorem State.setThr_warm : (s.setThr t th).warm = s.warm := rfl
@[simp] theorem State.setThr_warmDue : (s.setThr t th).warmDue = s.warmDue := rfl
@[simp] theorem State.setThr_longClear : (s.setThr t th).longClear = s.longClear := rfl
@[simp] theorem State.setThr_clk : (s.setThr t th).clk = s.clk := rfl
@[simp] theorem State.setThr_cfg : (s.setThr t th).cfg = s.cfg := rfl
@[simp] theorem State.setThr_image : (s.setThr t th).image = s.image := rfl
@[simp] theorem State.setThr_clkWritten : (s.setThr t th).clkWritten = s.clkWritten := rfl
@[simp] theorem State.setThr_decl : (s.setThr t th).decl = s.decl := rfl
@[simp] theorem State.setThr_declNew : (s.setThr t th).declNew = s.declNew := rfl
@[simp] theorem State.setThr_txn : (s.setThr t th).txn = s.txn := rfl
@[simp] theorem State.setThr_mem : (s.setThr t th).mem = s.mem := rfl
@[simp] theorem State.setThr_cruiseNext : (s.setThr t th).cruiseNext = s.cruiseNext := rfl
@[simp] theorem State.setThr_cruiseAge : (s.setThr t th).cruiseAge = s.cruiseAge := rfl
@[simp] theorem State.setThr_tally : (s.setThr t th).tally = s.tally := rfl
@[simp] theorem State.setThr_farOps : (s.setThr t th).farOps = s.farOps := rfl
@[simp] theorem State.setThr_tags : (s.setThr t th).tags = s.tags := rfl
@[simp] theorem State.setThr_ahead : (s.setThr t th).ahead = s.ahead := rfl
@[simp] theorem State.setThr_lines : (s.setThr t th).lines = s.lines := rfl
@[simp] theorem State.setThr_evict : (s.setThr t th).evict = s.evict := rfl
@[simp] theorem State.setThr_merge : (s.setThr t th).merge = s.merge := rfl
@[simp] theorem State.setThr_tiles : (s.setThr t th).tiles = s.tiles := rfl
@[simp] theorem State.setThr_poison : (s.setThr t th).poison = s.poison := rfl
@[simp] theorem State.setThr_eng : (s.setThr t th).eng = s.eng := rfl
@[simp] theorem State.setThr_arrs : (s.setThr t th).arrs = s.arrs := rfl
@[simp] theorem State.setThr_rowQ : (s.setThr t th).rowQ = s.rowQ := rfl
@[simp] theorem State.setThr_rowCur : (s.setThr t th).rowCur = s.rowCur := rfl
@[simp] theorem State.setThr_rowLast : (s.setThr t th).rowLast = s.rowLast := rfl
@[simp] theorem State.setThr_ends : (s.setThr t th).ends = s.ends := rfl
@[simp] theorem State.setThr_flumeOut : (s.setThr t th).flumeOut = s.flumeOut := rfl
@[simp] theorem State.setThr_loop : (s.setThr t th).loop = s.loop := rfl
@[simp] theorem State.setThr_ringWrites : (s.setThr t th).ringWrites = s.ringWrites := rfl
@[simp] theorem State.setThr_landWrites : (s.setThr t th).landWrites = s.landWrites := rfl
@[simp] theorem State.setThr_lanes : (s.setThr t th).lanes = s.lanes := rfl
@[simp] theorem State.setThr_movTags : (s.setThr t th).movTags = s.movTags := rfl
@[simp] theorem State.setThr_wardenQ : (s.setThr t th).wardenQ = s.wardenQ := rfl
@[simp] theorem State.setThr_notices : (s.setThr t th).notices = s.notices := rfl
@[simp] theorem State.setThr_noticeSeq : (s.setThr t th).noticeSeq = s.noticeSeq := rfl
@[simp] theorem State.setThr_faultLog : (s.setThr t th).faultLog = s.faultLog := rfl
@[simp] theorem State.setThr_atpQ : (s.setThr t th).atpQ = s.atpQ := rfl
@[simp] theorem State.setThr_atpCur : (s.setThr t th).atpCur = s.atpCur := rfl
@[simp] theorem State.setThr_brks : (s.setThr t th).brks = s.brks := rfl
@[simp] theorem State.setThr_watches : (s.setThr t th).watches = s.watches := rfl
@[simp] theorem State.setThr_gpOut : (s.setThr t th).gpOut = s.gpOut := rfl
@[simp] theorem State.setThr_nextId : (s.setThr t th).nextId = s.nextId := rfl

@[simp] theorem State.modThr_pending : (s.modThr t ft).pending = s.pending := rfl
@[simp] theorem State.modThr_pins : (s.modThr t ft).pins = s.pins := rfl
@[simp] theorem State.modThr_ident : (s.modThr t ft).ident = s.ident := rfl
@[simp] theorem State.modThr_trim : (s.modThr t ft).trim = s.trim := rfl
@[simp] theorem State.modThr_trimUser : (s.modThr t ft).trimUser = s.trimUser := rfl
@[simp] theorem State.modThr_trimSo : (s.modThr t ft).trimSo = s.trimSo := rfl
@[simp] theorem State.modThr_core : (s.modThr t ft).core = s.core := rfl
@[simp] theorem State.modThr_faultCause : (s.modThr t ft).faultCause = s.faultCause := rfl
@[simp] theorem State.modThr_ready : (s.modThr t ft).ready = s.ready := rfl
@[simp] theorem State.modThr_readySent : (s.modThr t ft).readySent = s.readySent := rfl
@[simp] theorem State.modThr_readyMark : (s.modThr t ft).readyMark = s.readyMark := rfl
@[simp] theorem State.modThr_cycle : (s.modThr t ft).cycle = s.cycle := rfl
@[simp] theorem State.modThr_mclk : (s.modThr t ft).mclk = s.mclk := rfl
@[simp] theorem State.modThr_mclkFrac : (s.modThr t ft).mclkFrac = s.mclkFrac := rfl
@[simp] theorem State.modThr_slotCtr : (s.modThr t ft).slotCtr = s.slotCtr := rfl
@[simp] theorem State.modThr_stillCtr : (s.modThr t ft).stillCtr = s.stillCtr := rfl
@[simp] theorem State.modThr_stillRaised : (s.modThr t ft).stillRaised = s.stillRaised := rfl
@[simp] theorem State.modThr_warm : (s.modThr t ft).warm = s.warm := rfl
@[simp] theorem State.modThr_warmDue : (s.modThr t ft).warmDue = s.warmDue := rfl
@[simp] theorem State.modThr_longClear : (s.modThr t ft).longClear = s.longClear := rfl
@[simp] theorem State.modThr_clk : (s.modThr t ft).clk = s.clk := rfl
@[simp] theorem State.modThr_cfg : (s.modThr t ft).cfg = s.cfg := rfl
@[simp] theorem State.modThr_image : (s.modThr t ft).image = s.image := rfl
@[simp] theorem State.modThr_clkWritten : (s.modThr t ft).clkWritten = s.clkWritten := rfl
@[simp] theorem State.modThr_decl : (s.modThr t ft).decl = s.decl := rfl
@[simp] theorem State.modThr_declNew : (s.modThr t ft).declNew = s.declNew := rfl
@[simp] theorem State.modThr_txn : (s.modThr t ft).txn = s.txn := rfl
@[simp] theorem State.modThr_mem : (s.modThr t ft).mem = s.mem := rfl
@[simp] theorem State.modThr_cruiseNext : (s.modThr t ft).cruiseNext = s.cruiseNext := rfl
@[simp] theorem State.modThr_cruiseAge : (s.modThr t ft).cruiseAge = s.cruiseAge := rfl
@[simp] theorem State.modThr_tally : (s.modThr t ft).tally = s.tally := rfl
@[simp] theorem State.modThr_farOps : (s.modThr t ft).farOps = s.farOps := rfl
@[simp] theorem State.modThr_tags : (s.modThr t ft).tags = s.tags := rfl
@[simp] theorem State.modThr_ahead : (s.modThr t ft).ahead = s.ahead := rfl
@[simp] theorem State.modThr_lines : (s.modThr t ft).lines = s.lines := rfl
@[simp] theorem State.modThr_evict : (s.modThr t ft).evict = s.evict := rfl
@[simp] theorem State.modThr_merge : (s.modThr t ft).merge = s.merge := rfl
@[simp] theorem State.modThr_tiles : (s.modThr t ft).tiles = s.tiles := rfl
@[simp] theorem State.modThr_poison : (s.modThr t ft).poison = s.poison := rfl
@[simp] theorem State.modThr_eng : (s.modThr t ft).eng = s.eng := rfl
@[simp] theorem State.modThr_arrs : (s.modThr t ft).arrs = s.arrs := rfl
@[simp] theorem State.modThr_rowQ : (s.modThr t ft).rowQ = s.rowQ := rfl
@[simp] theorem State.modThr_rowCur : (s.modThr t ft).rowCur = s.rowCur := rfl
@[simp] theorem State.modThr_rowLast : (s.modThr t ft).rowLast = s.rowLast := rfl
@[simp] theorem State.modThr_ends : (s.modThr t ft).ends = s.ends := rfl
@[simp] theorem State.modThr_flumeOut : (s.modThr t ft).flumeOut = s.flumeOut := rfl
@[simp] theorem State.modThr_loop : (s.modThr t ft).loop = s.loop := rfl
@[simp] theorem State.modThr_ringWrites : (s.modThr t ft).ringWrites = s.ringWrites := rfl
@[simp] theorem State.modThr_landWrites : (s.modThr t ft).landWrites = s.landWrites := rfl
@[simp] theorem State.modThr_lanes : (s.modThr t ft).lanes = s.lanes := rfl
@[simp] theorem State.modThr_movTags : (s.modThr t ft).movTags = s.movTags := rfl
@[simp] theorem State.modThr_wardenQ : (s.modThr t ft).wardenQ = s.wardenQ := rfl
@[simp] theorem State.modThr_notices : (s.modThr t ft).notices = s.notices := rfl
@[simp] theorem State.modThr_noticeSeq : (s.modThr t ft).noticeSeq = s.noticeSeq := rfl
@[simp] theorem State.modThr_faultLog : (s.modThr t ft).faultLog = s.faultLog := rfl
@[simp] theorem State.modThr_atpQ : (s.modThr t ft).atpQ = s.atpQ := rfl
@[simp] theorem State.modThr_atpCur : (s.modThr t ft).atpCur = s.atpCur := rfl
@[simp] theorem State.modThr_brks : (s.modThr t ft).brks = s.brks := rfl
@[simp] theorem State.modThr_watches : (s.modThr t ft).watches = s.watches := rfl
@[simp] theorem State.modThr_gpOut : (s.modThr t ft).gpOut = s.gpOut := rfl
@[simp] theorem State.modThr_nextId : (s.modThr t ft).nextId = s.nextId := rfl

@[simp] theorem State.setArr_pending : (s.setArr a ar).pending = s.pending := rfl
@[simp] theorem State.setArr_pins : (s.setArr a ar).pins = s.pins := rfl
@[simp] theorem State.setArr_ident : (s.setArr a ar).ident = s.ident := rfl
@[simp] theorem State.setArr_trim : (s.setArr a ar).trim = s.trim := rfl
@[simp] theorem State.setArr_trimUser : (s.setArr a ar).trimUser = s.trimUser := rfl
@[simp] theorem State.setArr_trimSo : (s.setArr a ar).trimSo = s.trimSo := rfl
@[simp] theorem State.setArr_core : (s.setArr a ar).core = s.core := rfl
@[simp] theorem State.setArr_faultCause : (s.setArr a ar).faultCause = s.faultCause := rfl
@[simp] theorem State.setArr_ready : (s.setArr a ar).ready = s.ready := rfl
@[simp] theorem State.setArr_readySent : (s.setArr a ar).readySent = s.readySent := rfl
@[simp] theorem State.setArr_readyMark : (s.setArr a ar).readyMark = s.readyMark := rfl
@[simp] theorem State.setArr_cycle : (s.setArr a ar).cycle = s.cycle := rfl
@[simp] theorem State.setArr_mclk : (s.setArr a ar).mclk = s.mclk := rfl
@[simp] theorem State.setArr_mclkFrac : (s.setArr a ar).mclkFrac = s.mclkFrac := rfl
@[simp] theorem State.setArr_slotCtr : (s.setArr a ar).slotCtr = s.slotCtr := rfl
@[simp] theorem State.setArr_stillCtr : (s.setArr a ar).stillCtr = s.stillCtr := rfl
@[simp] theorem State.setArr_stillRaised : (s.setArr a ar).stillRaised = s.stillRaised := rfl
@[simp] theorem State.setArr_warm : (s.setArr a ar).warm = s.warm := rfl
@[simp] theorem State.setArr_warmDue : (s.setArr a ar).warmDue = s.warmDue := rfl
@[simp] theorem State.setArr_longClear : (s.setArr a ar).longClear = s.longClear := rfl
@[simp] theorem State.setArr_clk : (s.setArr a ar).clk = s.clk := rfl
@[simp] theorem State.setArr_cfg : (s.setArr a ar).cfg = s.cfg := rfl
@[simp] theorem State.setArr_image : (s.setArr a ar).image = s.image := rfl
@[simp] theorem State.setArr_clkWritten : (s.setArr a ar).clkWritten = s.clkWritten := rfl
@[simp] theorem State.setArr_decl : (s.setArr a ar).decl = s.decl := rfl
@[simp] theorem State.setArr_declNew : (s.setArr a ar).declNew = s.declNew := rfl
@[simp] theorem State.setArr_txn : (s.setArr a ar).txn = s.txn := rfl
@[simp] theorem State.setArr_threads : (s.setArr a ar).threads = s.threads := rfl
@[simp] theorem State.setArr_mem : (s.setArr a ar).mem = s.mem := rfl
@[simp] theorem State.setArr_cruiseNext : (s.setArr a ar).cruiseNext = s.cruiseNext := rfl
@[simp] theorem State.setArr_cruiseAge : (s.setArr a ar).cruiseAge = s.cruiseAge := rfl
@[simp] theorem State.setArr_tally : (s.setArr a ar).tally = s.tally := rfl
@[simp] theorem State.setArr_farOps : (s.setArr a ar).farOps = s.farOps := rfl
@[simp] theorem State.setArr_tags : (s.setArr a ar).tags = s.tags := rfl
@[simp] theorem State.setArr_ahead : (s.setArr a ar).ahead = s.ahead := rfl
@[simp] theorem State.setArr_lines : (s.setArr a ar).lines = s.lines := rfl
@[simp] theorem State.setArr_evict : (s.setArr a ar).evict = s.evict := rfl
@[simp] theorem State.setArr_merge : (s.setArr a ar).merge = s.merge := rfl
@[simp] theorem State.setArr_tiles : (s.setArr a ar).tiles = s.tiles := rfl
@[simp] theorem State.setArr_poison : (s.setArr a ar).poison = s.poison := rfl
@[simp] theorem State.setArr_eng : (s.setArr a ar).eng = s.eng := rfl
@[simp] theorem State.setArr_rowQ : (s.setArr a ar).rowQ = s.rowQ := rfl
@[simp] theorem State.setArr_rowCur : (s.setArr a ar).rowCur = s.rowCur := rfl
@[simp] theorem State.setArr_rowLast : (s.setArr a ar).rowLast = s.rowLast := rfl
@[simp] theorem State.setArr_ends : (s.setArr a ar).ends = s.ends := rfl
@[simp] theorem State.setArr_flumeOut : (s.setArr a ar).flumeOut = s.flumeOut := rfl
@[simp] theorem State.setArr_loop : (s.setArr a ar).loop = s.loop := rfl
@[simp] theorem State.setArr_ringWrites : (s.setArr a ar).ringWrites = s.ringWrites := rfl
@[simp] theorem State.setArr_landWrites : (s.setArr a ar).landWrites = s.landWrites := rfl
@[simp] theorem State.setArr_lanes : (s.setArr a ar).lanes = s.lanes := rfl
@[simp] theorem State.setArr_movTags : (s.setArr a ar).movTags = s.movTags := rfl
@[simp] theorem State.setArr_wardenQ : (s.setArr a ar).wardenQ = s.wardenQ := rfl
@[simp] theorem State.setArr_notices : (s.setArr a ar).notices = s.notices := rfl
@[simp] theorem State.setArr_noticeSeq : (s.setArr a ar).noticeSeq = s.noticeSeq := rfl
@[simp] theorem State.setArr_faultLog : (s.setArr a ar).faultLog = s.faultLog := rfl
@[simp] theorem State.setArr_atpQ : (s.setArr a ar).atpQ = s.atpQ := rfl
@[simp] theorem State.setArr_atpCur : (s.setArr a ar).atpCur = s.atpCur := rfl
@[simp] theorem State.setArr_brks : (s.setArr a ar).brks = s.brks := rfl
@[simp] theorem State.setArr_watches : (s.setArr a ar).watches = s.watches := rfl
@[simp] theorem State.setArr_gpOut : (s.setArr a ar).gpOut = s.gpOut := rfl
@[simp] theorem State.setArr_nextId : (s.setArr a ar).nextId = s.nextId := rfl

@[simp] theorem State.modArr_pending : (s.modArr a fa).pending = s.pending := rfl
@[simp] theorem State.modArr_pins : (s.modArr a fa).pins = s.pins := rfl
@[simp] theorem State.modArr_ident : (s.modArr a fa).ident = s.ident := rfl
@[simp] theorem State.modArr_trim : (s.modArr a fa).trim = s.trim := rfl
@[simp] theorem State.modArr_trimUser : (s.modArr a fa).trimUser = s.trimUser := rfl
@[simp] theorem State.modArr_trimSo : (s.modArr a fa).trimSo = s.trimSo := rfl
@[simp] theorem State.modArr_core : (s.modArr a fa).core = s.core := rfl
@[simp] theorem State.modArr_faultCause : (s.modArr a fa).faultCause = s.faultCause := rfl
@[simp] theorem State.modArr_ready : (s.modArr a fa).ready = s.ready := rfl
@[simp] theorem State.modArr_readySent : (s.modArr a fa).readySent = s.readySent := rfl
@[simp] theorem State.modArr_readyMark : (s.modArr a fa).readyMark = s.readyMark := rfl
@[simp] theorem State.modArr_cycle : (s.modArr a fa).cycle = s.cycle := rfl
@[simp] theorem State.modArr_mclk : (s.modArr a fa).mclk = s.mclk := rfl
@[simp] theorem State.modArr_mclkFrac : (s.modArr a fa).mclkFrac = s.mclkFrac := rfl
@[simp] theorem State.modArr_slotCtr : (s.modArr a fa).slotCtr = s.slotCtr := rfl
@[simp] theorem State.modArr_stillCtr : (s.modArr a fa).stillCtr = s.stillCtr := rfl
@[simp] theorem State.modArr_stillRaised : (s.modArr a fa).stillRaised = s.stillRaised := rfl
@[simp] theorem State.modArr_warm : (s.modArr a fa).warm = s.warm := rfl
@[simp] theorem State.modArr_warmDue : (s.modArr a fa).warmDue = s.warmDue := rfl
@[simp] theorem State.modArr_longClear : (s.modArr a fa).longClear = s.longClear := rfl
@[simp] theorem State.modArr_clk : (s.modArr a fa).clk = s.clk := rfl
@[simp] theorem State.modArr_cfg : (s.modArr a fa).cfg = s.cfg := rfl
@[simp] theorem State.modArr_image : (s.modArr a fa).image = s.image := rfl
@[simp] theorem State.modArr_clkWritten : (s.modArr a fa).clkWritten = s.clkWritten := rfl
@[simp] theorem State.modArr_decl : (s.modArr a fa).decl = s.decl := rfl
@[simp] theorem State.modArr_declNew : (s.modArr a fa).declNew = s.declNew := rfl
@[simp] theorem State.modArr_txn : (s.modArr a fa).txn = s.txn := rfl
@[simp] theorem State.modArr_threads : (s.modArr a fa).threads = s.threads := rfl
@[simp] theorem State.modArr_mem : (s.modArr a fa).mem = s.mem := rfl
@[simp] theorem State.modArr_cruiseNext : (s.modArr a fa).cruiseNext = s.cruiseNext := rfl
@[simp] theorem State.modArr_cruiseAge : (s.modArr a fa).cruiseAge = s.cruiseAge := rfl
@[simp] theorem State.modArr_tally : (s.modArr a fa).tally = s.tally := rfl
@[simp] theorem State.modArr_farOps : (s.modArr a fa).farOps = s.farOps := rfl
@[simp] theorem State.modArr_tags : (s.modArr a fa).tags = s.tags := rfl
@[simp] theorem State.modArr_ahead : (s.modArr a fa).ahead = s.ahead := rfl
@[simp] theorem State.modArr_lines : (s.modArr a fa).lines = s.lines := rfl
@[simp] theorem State.modArr_evict : (s.modArr a fa).evict = s.evict := rfl
@[simp] theorem State.modArr_merge : (s.modArr a fa).merge = s.merge := rfl
@[simp] theorem State.modArr_tiles : (s.modArr a fa).tiles = s.tiles := rfl
@[simp] theorem State.modArr_poison : (s.modArr a fa).poison = s.poison := rfl
@[simp] theorem State.modArr_eng : (s.modArr a fa).eng = s.eng := rfl
@[simp] theorem State.modArr_rowQ : (s.modArr a fa).rowQ = s.rowQ := rfl
@[simp] theorem State.modArr_rowCur : (s.modArr a fa).rowCur = s.rowCur := rfl
@[simp] theorem State.modArr_rowLast : (s.modArr a fa).rowLast = s.rowLast := rfl
@[simp] theorem State.modArr_ends : (s.modArr a fa).ends = s.ends := rfl
@[simp] theorem State.modArr_flumeOut : (s.modArr a fa).flumeOut = s.flumeOut := rfl
@[simp] theorem State.modArr_loop : (s.modArr a fa).loop = s.loop := rfl
@[simp] theorem State.modArr_ringWrites : (s.modArr a fa).ringWrites = s.ringWrites := rfl
@[simp] theorem State.modArr_landWrites : (s.modArr a fa).landWrites = s.landWrites := rfl
@[simp] theorem State.modArr_lanes : (s.modArr a fa).lanes = s.lanes := rfl
@[simp] theorem State.modArr_movTags : (s.modArr a fa).movTags = s.movTags := rfl
@[simp] theorem State.modArr_wardenQ : (s.modArr a fa).wardenQ = s.wardenQ := rfl
@[simp] theorem State.modArr_notices : (s.modArr a fa).notices = s.notices := rfl
@[simp] theorem State.modArr_noticeSeq : (s.modArr a fa).noticeSeq = s.noticeSeq := rfl
@[simp] theorem State.modArr_faultLog : (s.modArr a fa).faultLog = s.faultLog := rfl
@[simp] theorem State.modArr_atpQ : (s.modArr a fa).atpQ = s.atpQ := rfl
@[simp] theorem State.modArr_atpCur : (s.modArr a fa).atpCur = s.atpCur := rfl
@[simp] theorem State.modArr_brks : (s.modArr a fa).brks = s.brks := rfl
@[simp] theorem State.modArr_watches : (s.modArr a fa).watches = s.watches := rfl
@[simp] theorem State.modArr_gpOut : (s.modArr a fa).gpOut = s.gpOut := rfl
@[simp] theorem State.modArr_nextId : (s.modArr a fa).nextId = s.nextId := rfl

@[simp] theorem State.setEnd_pending : (s.setEnd e fe).pending = s.pending := rfl
@[simp] theorem State.setEnd_pins : (s.setEnd e fe).pins = s.pins := rfl
@[simp] theorem State.setEnd_ident : (s.setEnd e fe).ident = s.ident := rfl
@[simp] theorem State.setEnd_trim : (s.setEnd e fe).trim = s.trim := rfl
@[simp] theorem State.setEnd_trimUser : (s.setEnd e fe).trimUser = s.trimUser := rfl
@[simp] theorem State.setEnd_trimSo : (s.setEnd e fe).trimSo = s.trimSo := rfl
@[simp] theorem State.setEnd_core : (s.setEnd e fe).core = s.core := rfl
@[simp] theorem State.setEnd_faultCause : (s.setEnd e fe).faultCause = s.faultCause := rfl
@[simp] theorem State.setEnd_ready : (s.setEnd e fe).ready = s.ready := rfl
@[simp] theorem State.setEnd_readySent : (s.setEnd e fe).readySent = s.readySent := rfl
@[simp] theorem State.setEnd_readyMark : (s.setEnd e fe).readyMark = s.readyMark := rfl
@[simp] theorem State.setEnd_cycle : (s.setEnd e fe).cycle = s.cycle := rfl
@[simp] theorem State.setEnd_mclk : (s.setEnd e fe).mclk = s.mclk := rfl
@[simp] theorem State.setEnd_mclkFrac : (s.setEnd e fe).mclkFrac = s.mclkFrac := rfl
@[simp] theorem State.setEnd_slotCtr : (s.setEnd e fe).slotCtr = s.slotCtr := rfl
@[simp] theorem State.setEnd_stillCtr : (s.setEnd e fe).stillCtr = s.stillCtr := rfl
@[simp] theorem State.setEnd_stillRaised : (s.setEnd e fe).stillRaised = s.stillRaised := rfl
@[simp] theorem State.setEnd_warm : (s.setEnd e fe).warm = s.warm := rfl
@[simp] theorem State.setEnd_warmDue : (s.setEnd e fe).warmDue = s.warmDue := rfl
@[simp] theorem State.setEnd_longClear : (s.setEnd e fe).longClear = s.longClear := rfl
@[simp] theorem State.setEnd_clk : (s.setEnd e fe).clk = s.clk := rfl
@[simp] theorem State.setEnd_cfg : (s.setEnd e fe).cfg = s.cfg := rfl
@[simp] theorem State.setEnd_image : (s.setEnd e fe).image = s.image := rfl
@[simp] theorem State.setEnd_clkWritten : (s.setEnd e fe).clkWritten = s.clkWritten := rfl
@[simp] theorem State.setEnd_decl : (s.setEnd e fe).decl = s.decl := rfl
@[simp] theorem State.setEnd_declNew : (s.setEnd e fe).declNew = s.declNew := rfl
@[simp] theorem State.setEnd_txn : (s.setEnd e fe).txn = s.txn := rfl
@[simp] theorem State.setEnd_threads : (s.setEnd e fe).threads = s.threads := rfl
@[simp] theorem State.setEnd_mem : (s.setEnd e fe).mem = s.mem := rfl
@[simp] theorem State.setEnd_cruiseNext : (s.setEnd e fe).cruiseNext = s.cruiseNext := rfl
@[simp] theorem State.setEnd_cruiseAge : (s.setEnd e fe).cruiseAge = s.cruiseAge := rfl
@[simp] theorem State.setEnd_tally : (s.setEnd e fe).tally = s.tally := rfl
@[simp] theorem State.setEnd_farOps : (s.setEnd e fe).farOps = s.farOps := rfl
@[simp] theorem State.setEnd_tags : (s.setEnd e fe).tags = s.tags := rfl
@[simp] theorem State.setEnd_ahead : (s.setEnd e fe).ahead = s.ahead := rfl
@[simp] theorem State.setEnd_lines : (s.setEnd e fe).lines = s.lines := rfl
@[simp] theorem State.setEnd_evict : (s.setEnd e fe).evict = s.evict := rfl
@[simp] theorem State.setEnd_merge : (s.setEnd e fe).merge = s.merge := rfl
@[simp] theorem State.setEnd_tiles : (s.setEnd e fe).tiles = s.tiles := rfl
@[simp] theorem State.setEnd_poison : (s.setEnd e fe).poison = s.poison := rfl
@[simp] theorem State.setEnd_eng : (s.setEnd e fe).eng = s.eng := rfl
@[simp] theorem State.setEnd_arrs : (s.setEnd e fe).arrs = s.arrs := rfl
@[simp] theorem State.setEnd_rowQ : (s.setEnd e fe).rowQ = s.rowQ := rfl
@[simp] theorem State.setEnd_rowCur : (s.setEnd e fe).rowCur = s.rowCur := rfl
@[simp] theorem State.setEnd_rowLast : (s.setEnd e fe).rowLast = s.rowLast := rfl
@[simp] theorem State.setEnd_flumeOut : (s.setEnd e fe).flumeOut = s.flumeOut := rfl
@[simp] theorem State.setEnd_loop : (s.setEnd e fe).loop = s.loop := rfl
@[simp] theorem State.setEnd_ringWrites : (s.setEnd e fe).ringWrites = s.ringWrites := rfl
@[simp] theorem State.setEnd_landWrites : (s.setEnd e fe).landWrites = s.landWrites := rfl
@[simp] theorem State.setEnd_lanes : (s.setEnd e fe).lanes = s.lanes := rfl
@[simp] theorem State.setEnd_movTags : (s.setEnd e fe).movTags = s.movTags := rfl
@[simp] theorem State.setEnd_wardenQ : (s.setEnd e fe).wardenQ = s.wardenQ := rfl
@[simp] theorem State.setEnd_notices : (s.setEnd e fe).notices = s.notices := rfl
@[simp] theorem State.setEnd_noticeSeq : (s.setEnd e fe).noticeSeq = s.noticeSeq := rfl
@[simp] theorem State.setEnd_faultLog : (s.setEnd e fe).faultLog = s.faultLog := rfl
@[simp] theorem State.setEnd_atpQ : (s.setEnd e fe).atpQ = s.atpQ := rfl
@[simp] theorem State.setEnd_atpCur : (s.setEnd e fe).atpCur = s.atpCur := rfl
@[simp] theorem State.setEnd_brks : (s.setEnd e fe).brks = s.brks := rfl
@[simp] theorem State.setEnd_watches : (s.setEnd e fe).watches = s.watches := rfl
@[simp] theorem State.setEnd_gpOut : (s.setEnd e fe).gpOut = s.gpOut := rfl
@[simp] theorem State.setEnd_nextId : (s.setEnd e fe).nextId = s.nextId := rfl

@[simp] theorem State.modEnd_pending : (s.modEnd e fE).pending = s.pending := rfl
@[simp] theorem State.modEnd_pins : (s.modEnd e fE).pins = s.pins := rfl
@[simp] theorem State.modEnd_ident : (s.modEnd e fE).ident = s.ident := rfl
@[simp] theorem State.modEnd_trim : (s.modEnd e fE).trim = s.trim := rfl
@[simp] theorem State.modEnd_trimUser : (s.modEnd e fE).trimUser = s.trimUser := rfl
@[simp] theorem State.modEnd_trimSo : (s.modEnd e fE).trimSo = s.trimSo := rfl
@[simp] theorem State.modEnd_core : (s.modEnd e fE).core = s.core := rfl
@[simp] theorem State.modEnd_faultCause : (s.modEnd e fE).faultCause = s.faultCause := rfl
@[simp] theorem State.modEnd_ready : (s.modEnd e fE).ready = s.ready := rfl
@[simp] theorem State.modEnd_readySent : (s.modEnd e fE).readySent = s.readySent := rfl
@[simp] theorem State.modEnd_readyMark : (s.modEnd e fE).readyMark = s.readyMark := rfl
@[simp] theorem State.modEnd_cycle : (s.modEnd e fE).cycle = s.cycle := rfl
@[simp] theorem State.modEnd_mclk : (s.modEnd e fE).mclk = s.mclk := rfl
@[simp] theorem State.modEnd_mclkFrac : (s.modEnd e fE).mclkFrac = s.mclkFrac := rfl
@[simp] theorem State.modEnd_slotCtr : (s.modEnd e fE).slotCtr = s.slotCtr := rfl
@[simp] theorem State.modEnd_stillCtr : (s.modEnd e fE).stillCtr = s.stillCtr := rfl
@[simp] theorem State.modEnd_stillRaised : (s.modEnd e fE).stillRaised = s.stillRaised := rfl
@[simp] theorem State.modEnd_warm : (s.modEnd e fE).warm = s.warm := rfl
@[simp] theorem State.modEnd_warmDue : (s.modEnd e fE).warmDue = s.warmDue := rfl
@[simp] theorem State.modEnd_longClear : (s.modEnd e fE).longClear = s.longClear := rfl
@[simp] theorem State.modEnd_clk : (s.modEnd e fE).clk = s.clk := rfl
@[simp] theorem State.modEnd_cfg : (s.modEnd e fE).cfg = s.cfg := rfl
@[simp] theorem State.modEnd_image : (s.modEnd e fE).image = s.image := rfl
@[simp] theorem State.modEnd_clkWritten : (s.modEnd e fE).clkWritten = s.clkWritten := rfl
@[simp] theorem State.modEnd_decl : (s.modEnd e fE).decl = s.decl := rfl
@[simp] theorem State.modEnd_declNew : (s.modEnd e fE).declNew = s.declNew := rfl
@[simp] theorem State.modEnd_txn : (s.modEnd e fE).txn = s.txn := rfl
@[simp] theorem State.modEnd_threads : (s.modEnd e fE).threads = s.threads := rfl
@[simp] theorem State.modEnd_mem : (s.modEnd e fE).mem = s.mem := rfl
@[simp] theorem State.modEnd_cruiseNext : (s.modEnd e fE).cruiseNext = s.cruiseNext := rfl
@[simp] theorem State.modEnd_cruiseAge : (s.modEnd e fE).cruiseAge = s.cruiseAge := rfl
@[simp] theorem State.modEnd_tally : (s.modEnd e fE).tally = s.tally := rfl
@[simp] theorem State.modEnd_farOps : (s.modEnd e fE).farOps = s.farOps := rfl
@[simp] theorem State.modEnd_tags : (s.modEnd e fE).tags = s.tags := rfl
@[simp] theorem State.modEnd_ahead : (s.modEnd e fE).ahead = s.ahead := rfl
@[simp] theorem State.modEnd_lines : (s.modEnd e fE).lines = s.lines := rfl
@[simp] theorem State.modEnd_evict : (s.modEnd e fE).evict = s.evict := rfl
@[simp] theorem State.modEnd_merge : (s.modEnd e fE).merge = s.merge := rfl
@[simp] theorem State.modEnd_tiles : (s.modEnd e fE).tiles = s.tiles := rfl
@[simp] theorem State.modEnd_poison : (s.modEnd e fE).poison = s.poison := rfl
@[simp] theorem State.modEnd_eng : (s.modEnd e fE).eng = s.eng := rfl
@[simp] theorem State.modEnd_arrs : (s.modEnd e fE).arrs = s.arrs := rfl
@[simp] theorem State.modEnd_rowQ : (s.modEnd e fE).rowQ = s.rowQ := rfl
@[simp] theorem State.modEnd_rowCur : (s.modEnd e fE).rowCur = s.rowCur := rfl
@[simp] theorem State.modEnd_rowLast : (s.modEnd e fE).rowLast = s.rowLast := rfl
@[simp] theorem State.modEnd_flumeOut : (s.modEnd e fE).flumeOut = s.flumeOut := rfl
@[simp] theorem State.modEnd_loop : (s.modEnd e fE).loop = s.loop := rfl
@[simp] theorem State.modEnd_ringWrites : (s.modEnd e fE).ringWrites = s.ringWrites := rfl
@[simp] theorem State.modEnd_landWrites : (s.modEnd e fE).landWrites = s.landWrites := rfl
@[simp] theorem State.modEnd_lanes : (s.modEnd e fE).lanes = s.lanes := rfl
@[simp] theorem State.modEnd_movTags : (s.modEnd e fE).movTags = s.movTags := rfl
@[simp] theorem State.modEnd_wardenQ : (s.modEnd e fE).wardenQ = s.wardenQ := rfl
@[simp] theorem State.modEnd_notices : (s.modEnd e fE).notices = s.notices := rfl
@[simp] theorem State.modEnd_noticeSeq : (s.modEnd e fE).noticeSeq = s.noticeSeq := rfl
@[simp] theorem State.modEnd_faultLog : (s.modEnd e fE).faultLog = s.faultLog := rfl
@[simp] theorem State.modEnd_atpQ : (s.modEnd e fE).atpQ = s.atpQ := rfl
@[simp] theorem State.modEnd_atpCur : (s.modEnd e fE).atpCur = s.atpCur := rfl
@[simp] theorem State.modEnd_brks : (s.modEnd e fE).brks = s.brks := rfl
@[simp] theorem State.modEnd_watches : (s.modEnd e fE).watches = s.watches := rfl
@[simp] theorem State.modEnd_gpOut : (s.modEnd e fE).gpOut = s.gpOut := rfl
@[simp] theorem State.modEnd_nextId : (s.modEnd e fE).nextId = s.nextId := rfl

@[simp] theorem State.setLane_pending : (s.setLane n ln).pending = s.pending := rfl
@[simp] theorem State.setLane_pins : (s.setLane n ln).pins = s.pins := rfl
@[simp] theorem State.setLane_ident : (s.setLane n ln).ident = s.ident := rfl
@[simp] theorem State.setLane_trim : (s.setLane n ln).trim = s.trim := rfl
@[simp] theorem State.setLane_trimUser : (s.setLane n ln).trimUser = s.trimUser := rfl
@[simp] theorem State.setLane_trimSo : (s.setLane n ln).trimSo = s.trimSo := rfl
@[simp] theorem State.setLane_core : (s.setLane n ln).core = s.core := rfl
@[simp] theorem State.setLane_faultCause : (s.setLane n ln).faultCause = s.faultCause := rfl
@[simp] theorem State.setLane_ready : (s.setLane n ln).ready = s.ready := rfl
@[simp] theorem State.setLane_readySent : (s.setLane n ln).readySent = s.readySent := rfl
@[simp] theorem State.setLane_readyMark : (s.setLane n ln).readyMark = s.readyMark := rfl
@[simp] theorem State.setLane_cycle : (s.setLane n ln).cycle = s.cycle := rfl
@[simp] theorem State.setLane_mclk : (s.setLane n ln).mclk = s.mclk := rfl
@[simp] theorem State.setLane_mclkFrac : (s.setLane n ln).mclkFrac = s.mclkFrac := rfl
@[simp] theorem State.setLane_slotCtr : (s.setLane n ln).slotCtr = s.slotCtr := rfl
@[simp] theorem State.setLane_stillCtr : (s.setLane n ln).stillCtr = s.stillCtr := rfl
@[simp] theorem State.setLane_stillRaised : (s.setLane n ln).stillRaised = s.stillRaised := rfl
@[simp] theorem State.setLane_warm : (s.setLane n ln).warm = s.warm := rfl
@[simp] theorem State.setLane_warmDue : (s.setLane n ln).warmDue = s.warmDue := rfl
@[simp] theorem State.setLane_longClear : (s.setLane n ln).longClear = s.longClear := rfl
@[simp] theorem State.setLane_clk : (s.setLane n ln).clk = s.clk := rfl
@[simp] theorem State.setLane_cfg : (s.setLane n ln).cfg = s.cfg := rfl
@[simp] theorem State.setLane_image : (s.setLane n ln).image = s.image := rfl
@[simp] theorem State.setLane_clkWritten : (s.setLane n ln).clkWritten = s.clkWritten := rfl
@[simp] theorem State.setLane_decl : (s.setLane n ln).decl = s.decl := rfl
@[simp] theorem State.setLane_declNew : (s.setLane n ln).declNew = s.declNew := rfl
@[simp] theorem State.setLane_txn : (s.setLane n ln).txn = s.txn := rfl
@[simp] theorem State.setLane_threads : (s.setLane n ln).threads = s.threads := rfl
@[simp] theorem State.setLane_mem : (s.setLane n ln).mem = s.mem := rfl
@[simp] theorem State.setLane_cruiseNext : (s.setLane n ln).cruiseNext = s.cruiseNext := rfl
@[simp] theorem State.setLane_cruiseAge : (s.setLane n ln).cruiseAge = s.cruiseAge := rfl
@[simp] theorem State.setLane_tally : (s.setLane n ln).tally = s.tally := rfl
@[simp] theorem State.setLane_farOps : (s.setLane n ln).farOps = s.farOps := rfl
@[simp] theorem State.setLane_tags : (s.setLane n ln).tags = s.tags := rfl
@[simp] theorem State.setLane_ahead : (s.setLane n ln).ahead = s.ahead := rfl
@[simp] theorem State.setLane_lines : (s.setLane n ln).lines = s.lines := rfl
@[simp] theorem State.setLane_evict : (s.setLane n ln).evict = s.evict := rfl
@[simp] theorem State.setLane_merge : (s.setLane n ln).merge = s.merge := rfl
@[simp] theorem State.setLane_tiles : (s.setLane n ln).tiles = s.tiles := rfl
@[simp] theorem State.setLane_poison : (s.setLane n ln).poison = s.poison := rfl
@[simp] theorem State.setLane_eng : (s.setLane n ln).eng = s.eng := rfl
@[simp] theorem State.setLane_arrs : (s.setLane n ln).arrs = s.arrs := rfl
@[simp] theorem State.setLane_rowQ : (s.setLane n ln).rowQ = s.rowQ := rfl
@[simp] theorem State.setLane_rowCur : (s.setLane n ln).rowCur = s.rowCur := rfl
@[simp] theorem State.setLane_rowLast : (s.setLane n ln).rowLast = s.rowLast := rfl
@[simp] theorem State.setLane_ends : (s.setLane n ln).ends = s.ends := rfl
@[simp] theorem State.setLane_flumeOut : (s.setLane n ln).flumeOut = s.flumeOut := rfl
@[simp] theorem State.setLane_loop : (s.setLane n ln).loop = s.loop := rfl
@[simp] theorem State.setLane_ringWrites : (s.setLane n ln).ringWrites = s.ringWrites := rfl
@[simp] theorem State.setLane_landWrites : (s.setLane n ln).landWrites = s.landWrites := rfl
@[simp] theorem State.setLane_movTags : (s.setLane n ln).movTags = s.movTags := rfl
@[simp] theorem State.setLane_wardenQ : (s.setLane n ln).wardenQ = s.wardenQ := rfl
@[simp] theorem State.setLane_notices : (s.setLane n ln).notices = s.notices := rfl
@[simp] theorem State.setLane_noticeSeq : (s.setLane n ln).noticeSeq = s.noticeSeq := rfl
@[simp] theorem State.setLane_faultLog : (s.setLane n ln).faultLog = s.faultLog := rfl
@[simp] theorem State.setLane_atpQ : (s.setLane n ln).atpQ = s.atpQ := rfl
@[simp] theorem State.setLane_atpCur : (s.setLane n ln).atpCur = s.atpCur := rfl
@[simp] theorem State.setLane_brks : (s.setLane n ln).brks = s.brks := rfl
@[simp] theorem State.setLane_watches : (s.setLane n ln).watches = s.watches := rfl
@[simp] theorem State.setLane_gpOut : (s.setLane n ln).gpOut = s.gpOut := rfl
@[simp] theorem State.setLane_nextId : (s.setLane n ln).nextId = s.nextId := rfl

@[simp] theorem State.modLane_pending : (s.modLane n fl).pending = s.pending := rfl
@[simp] theorem State.modLane_pins : (s.modLane n fl).pins = s.pins := rfl
@[simp] theorem State.modLane_ident : (s.modLane n fl).ident = s.ident := rfl
@[simp] theorem State.modLane_trim : (s.modLane n fl).trim = s.trim := rfl
@[simp] theorem State.modLane_trimUser : (s.modLane n fl).trimUser = s.trimUser := rfl
@[simp] theorem State.modLane_trimSo : (s.modLane n fl).trimSo = s.trimSo := rfl
@[simp] theorem State.modLane_core : (s.modLane n fl).core = s.core := rfl
@[simp] theorem State.modLane_faultCause : (s.modLane n fl).faultCause = s.faultCause := rfl
@[simp] theorem State.modLane_ready : (s.modLane n fl).ready = s.ready := rfl
@[simp] theorem State.modLane_readySent : (s.modLane n fl).readySent = s.readySent := rfl
@[simp] theorem State.modLane_readyMark : (s.modLane n fl).readyMark = s.readyMark := rfl
@[simp] theorem State.modLane_cycle : (s.modLane n fl).cycle = s.cycle := rfl
@[simp] theorem State.modLane_mclk : (s.modLane n fl).mclk = s.mclk := rfl
@[simp] theorem State.modLane_mclkFrac : (s.modLane n fl).mclkFrac = s.mclkFrac := rfl
@[simp] theorem State.modLane_slotCtr : (s.modLane n fl).slotCtr = s.slotCtr := rfl
@[simp] theorem State.modLane_stillCtr : (s.modLane n fl).stillCtr = s.stillCtr := rfl
@[simp] theorem State.modLane_stillRaised : (s.modLane n fl).stillRaised = s.stillRaised := rfl
@[simp] theorem State.modLane_warm : (s.modLane n fl).warm = s.warm := rfl
@[simp] theorem State.modLane_warmDue : (s.modLane n fl).warmDue = s.warmDue := rfl
@[simp] theorem State.modLane_longClear : (s.modLane n fl).longClear = s.longClear := rfl
@[simp] theorem State.modLane_clk : (s.modLane n fl).clk = s.clk := rfl
@[simp] theorem State.modLane_cfg : (s.modLane n fl).cfg = s.cfg := rfl
@[simp] theorem State.modLane_image : (s.modLane n fl).image = s.image := rfl
@[simp] theorem State.modLane_clkWritten : (s.modLane n fl).clkWritten = s.clkWritten := rfl
@[simp] theorem State.modLane_decl : (s.modLane n fl).decl = s.decl := rfl
@[simp] theorem State.modLane_declNew : (s.modLane n fl).declNew = s.declNew := rfl
@[simp] theorem State.modLane_txn : (s.modLane n fl).txn = s.txn := rfl
@[simp] theorem State.modLane_threads : (s.modLane n fl).threads = s.threads := rfl
@[simp] theorem State.modLane_mem : (s.modLane n fl).mem = s.mem := rfl
@[simp] theorem State.modLane_cruiseNext : (s.modLane n fl).cruiseNext = s.cruiseNext := rfl
@[simp] theorem State.modLane_cruiseAge : (s.modLane n fl).cruiseAge = s.cruiseAge := rfl
@[simp] theorem State.modLane_tally : (s.modLane n fl).tally = s.tally := rfl
@[simp] theorem State.modLane_farOps : (s.modLane n fl).farOps = s.farOps := rfl
@[simp] theorem State.modLane_tags : (s.modLane n fl).tags = s.tags := rfl
@[simp] theorem State.modLane_ahead : (s.modLane n fl).ahead = s.ahead := rfl
@[simp] theorem State.modLane_lines : (s.modLane n fl).lines = s.lines := rfl
@[simp] theorem State.modLane_evict : (s.modLane n fl).evict = s.evict := rfl
@[simp] theorem State.modLane_merge : (s.modLane n fl).merge = s.merge := rfl
@[simp] theorem State.modLane_tiles : (s.modLane n fl).tiles = s.tiles := rfl
@[simp] theorem State.modLane_poison : (s.modLane n fl).poison = s.poison := rfl
@[simp] theorem State.modLane_eng : (s.modLane n fl).eng = s.eng := rfl
@[simp] theorem State.modLane_arrs : (s.modLane n fl).arrs = s.arrs := rfl
@[simp] theorem State.modLane_rowQ : (s.modLane n fl).rowQ = s.rowQ := rfl
@[simp] theorem State.modLane_rowCur : (s.modLane n fl).rowCur = s.rowCur := rfl
@[simp] theorem State.modLane_rowLast : (s.modLane n fl).rowLast = s.rowLast := rfl
@[simp] theorem State.modLane_ends : (s.modLane n fl).ends = s.ends := rfl
@[simp] theorem State.modLane_flumeOut : (s.modLane n fl).flumeOut = s.flumeOut := rfl
@[simp] theorem State.modLane_loop : (s.modLane n fl).loop = s.loop := rfl
@[simp] theorem State.modLane_ringWrites : (s.modLane n fl).ringWrites = s.ringWrites := rfl
@[simp] theorem State.modLane_landWrites : (s.modLane n fl).landWrites = s.landWrites := rfl
@[simp] theorem State.modLane_movTags : (s.modLane n fl).movTags = s.movTags := rfl
@[simp] theorem State.modLane_wardenQ : (s.modLane n fl).wardenQ = s.wardenQ := rfl
@[simp] theorem State.modLane_notices : (s.modLane n fl).notices = s.notices := rfl
@[simp] theorem State.modLane_noticeSeq : (s.modLane n fl).noticeSeq = s.noticeSeq := rfl
@[simp] theorem State.modLane_faultLog : (s.modLane n fl).faultLog = s.faultLog := rfl
@[simp] theorem State.modLane_atpQ : (s.modLane n fl).atpQ = s.atpQ := rfl
@[simp] theorem State.modLane_atpCur : (s.modLane n fl).atpCur = s.atpCur := rfl
@[simp] theorem State.modLane_brks : (s.modLane n fl).brks = s.brks := rfl
@[simp] theorem State.modLane_watches : (s.modLane n fl).watches = s.watches := rfl
@[simp] theorem State.modLane_gpOut : (s.modLane n fl).gpOut = s.gpOut := rfl
@[simp] theorem State.modLane_nextId : (s.modLane n fl).nextId = s.nextId := rfl

@[simp] theorem State.setEng_pending : (s.setEng x q).pending = s.pending := rfl
@[simp] theorem State.setEng_pins : (s.setEng x q).pins = s.pins := rfl
@[simp] theorem State.setEng_ident : (s.setEng x q).ident = s.ident := rfl
@[simp] theorem State.setEng_trim : (s.setEng x q).trim = s.trim := rfl
@[simp] theorem State.setEng_trimUser : (s.setEng x q).trimUser = s.trimUser := rfl
@[simp] theorem State.setEng_trimSo : (s.setEng x q).trimSo = s.trimSo := rfl
@[simp] theorem State.setEng_core : (s.setEng x q).core = s.core := rfl
@[simp] theorem State.setEng_faultCause : (s.setEng x q).faultCause = s.faultCause := rfl
@[simp] theorem State.setEng_ready : (s.setEng x q).ready = s.ready := rfl
@[simp] theorem State.setEng_readySent : (s.setEng x q).readySent = s.readySent := rfl
@[simp] theorem State.setEng_readyMark : (s.setEng x q).readyMark = s.readyMark := rfl
@[simp] theorem State.setEng_cycle : (s.setEng x q).cycle = s.cycle := rfl
@[simp] theorem State.setEng_mclk : (s.setEng x q).mclk = s.mclk := rfl
@[simp] theorem State.setEng_mclkFrac : (s.setEng x q).mclkFrac = s.mclkFrac := rfl
@[simp] theorem State.setEng_slotCtr : (s.setEng x q).slotCtr = s.slotCtr := rfl
@[simp] theorem State.setEng_stillCtr : (s.setEng x q).stillCtr = s.stillCtr := rfl
@[simp] theorem State.setEng_stillRaised : (s.setEng x q).stillRaised = s.stillRaised := rfl
@[simp] theorem State.setEng_warm : (s.setEng x q).warm = s.warm := rfl
@[simp] theorem State.setEng_warmDue : (s.setEng x q).warmDue = s.warmDue := rfl
@[simp] theorem State.setEng_longClear : (s.setEng x q).longClear = s.longClear := rfl
@[simp] theorem State.setEng_clk : (s.setEng x q).clk = s.clk := rfl
@[simp] theorem State.setEng_cfg : (s.setEng x q).cfg = s.cfg := rfl
@[simp] theorem State.setEng_image : (s.setEng x q).image = s.image := rfl
@[simp] theorem State.setEng_clkWritten : (s.setEng x q).clkWritten = s.clkWritten := rfl
@[simp] theorem State.setEng_decl : (s.setEng x q).decl = s.decl := rfl
@[simp] theorem State.setEng_declNew : (s.setEng x q).declNew = s.declNew := rfl
@[simp] theorem State.setEng_txn : (s.setEng x q).txn = s.txn := rfl
@[simp] theorem State.setEng_threads : (s.setEng x q).threads = s.threads := rfl
@[simp] theorem State.setEng_mem : (s.setEng x q).mem = s.mem := rfl
@[simp] theorem State.setEng_cruiseNext : (s.setEng x q).cruiseNext = s.cruiseNext := rfl
@[simp] theorem State.setEng_cruiseAge : (s.setEng x q).cruiseAge = s.cruiseAge := rfl
@[simp] theorem State.setEng_tally : (s.setEng x q).tally = s.tally := rfl
@[simp] theorem State.setEng_farOps : (s.setEng x q).farOps = s.farOps := rfl
@[simp] theorem State.setEng_tags : (s.setEng x q).tags = s.tags := rfl
@[simp] theorem State.setEng_ahead : (s.setEng x q).ahead = s.ahead := rfl
@[simp] theorem State.setEng_lines : (s.setEng x q).lines = s.lines := rfl
@[simp] theorem State.setEng_evict : (s.setEng x q).evict = s.evict := rfl
@[simp] theorem State.setEng_merge : (s.setEng x q).merge = s.merge := rfl
@[simp] theorem State.setEng_tiles : (s.setEng x q).tiles = s.tiles := rfl
@[simp] theorem State.setEng_poison : (s.setEng x q).poison = s.poison := rfl
@[simp] theorem State.setEng_arrs : (s.setEng x q).arrs = s.arrs := rfl
@[simp] theorem State.setEng_rowQ : (s.setEng x q).rowQ = s.rowQ := rfl
@[simp] theorem State.setEng_rowCur : (s.setEng x q).rowCur = s.rowCur := rfl
@[simp] theorem State.setEng_rowLast : (s.setEng x q).rowLast = s.rowLast := rfl
@[simp] theorem State.setEng_ends : (s.setEng x q).ends = s.ends := rfl
@[simp] theorem State.setEng_flumeOut : (s.setEng x q).flumeOut = s.flumeOut := rfl
@[simp] theorem State.setEng_loop : (s.setEng x q).loop = s.loop := rfl
@[simp] theorem State.setEng_ringWrites : (s.setEng x q).ringWrites = s.ringWrites := rfl
@[simp] theorem State.setEng_landWrites : (s.setEng x q).landWrites = s.landWrites := rfl
@[simp] theorem State.setEng_lanes : (s.setEng x q).lanes = s.lanes := rfl
@[simp] theorem State.setEng_movTags : (s.setEng x q).movTags = s.movTags := rfl
@[simp] theorem State.setEng_wardenQ : (s.setEng x q).wardenQ = s.wardenQ := rfl
@[simp] theorem State.setEng_notices : (s.setEng x q).notices = s.notices := rfl
@[simp] theorem State.setEng_noticeSeq : (s.setEng x q).noticeSeq = s.noticeSeq := rfl
@[simp] theorem State.setEng_faultLog : (s.setEng x q).faultLog = s.faultLog := rfl
@[simp] theorem State.setEng_atpQ : (s.setEng x q).atpQ = s.atpQ := rfl
@[simp] theorem State.setEng_atpCur : (s.setEng x q).atpCur = s.atpCur := rfl
@[simp] theorem State.setEng_brks : (s.setEng x q).brks = s.brks := rfl
@[simp] theorem State.setEng_watches : (s.setEng x q).watches = s.watches := rfl
@[simp] theorem State.setEng_gpOut : (s.setEng x q).gpOut = s.gpOut := rfl
@[simp] theorem State.setEng_nextId : (s.setEng x q).nextId = s.nextId := rfl

@[simp] theorem State.mset_pending : (s.mset a w).pending = s.pending := rfl
@[simp] theorem State.mset_pins : (s.mset a w).pins = s.pins := rfl
@[simp] theorem State.mset_ident : (s.mset a w).ident = s.ident := rfl
@[simp] theorem State.mset_trim : (s.mset a w).trim = s.trim := rfl
@[simp] theorem State.mset_trimUser : (s.mset a w).trimUser = s.trimUser := rfl
@[simp] theorem State.mset_trimSo : (s.mset a w).trimSo = s.trimSo := rfl
@[simp] theorem State.mset_core : (s.mset a w).core = s.core := rfl
@[simp] theorem State.mset_faultCause : (s.mset a w).faultCause = s.faultCause := rfl
@[simp] theorem State.mset_ready : (s.mset a w).ready = s.ready := rfl
@[simp] theorem State.mset_readySent : (s.mset a w).readySent = s.readySent := rfl
@[simp] theorem State.mset_readyMark : (s.mset a w).readyMark = s.readyMark := rfl
@[simp] theorem State.mset_cycle : (s.mset a w).cycle = s.cycle := rfl
@[simp] theorem State.mset_mclk : (s.mset a w).mclk = s.mclk := rfl
@[simp] theorem State.mset_mclkFrac : (s.mset a w).mclkFrac = s.mclkFrac := rfl
@[simp] theorem State.mset_slotCtr : (s.mset a w).slotCtr = s.slotCtr := rfl
@[simp] theorem State.mset_stillCtr : (s.mset a w).stillCtr = s.stillCtr := rfl
@[simp] theorem State.mset_stillRaised : (s.mset a w).stillRaised = s.stillRaised := rfl
@[simp] theorem State.mset_warm : (s.mset a w).warm = s.warm := rfl
@[simp] theorem State.mset_warmDue : (s.mset a w).warmDue = s.warmDue := rfl
@[simp] theorem State.mset_longClear : (s.mset a w).longClear = s.longClear := rfl
@[simp] theorem State.mset_clk : (s.mset a w).clk = s.clk := rfl
@[simp] theorem State.mset_cfg : (s.mset a w).cfg = s.cfg := rfl
@[simp] theorem State.mset_image : (s.mset a w).image = s.image := rfl
@[simp] theorem State.mset_clkWritten : (s.mset a w).clkWritten = s.clkWritten := rfl
@[simp] theorem State.mset_decl : (s.mset a w).decl = s.decl := rfl
@[simp] theorem State.mset_declNew : (s.mset a w).declNew = s.declNew := rfl
@[simp] theorem State.mset_txn : (s.mset a w).txn = s.txn := rfl
@[simp] theorem State.mset_threads : (s.mset a w).threads = s.threads := rfl
@[simp] theorem State.mset_cruiseNext : (s.mset a w).cruiseNext = s.cruiseNext := rfl
@[simp] theorem State.mset_cruiseAge : (s.mset a w).cruiseAge = s.cruiseAge := rfl
@[simp] theorem State.mset_tally : (s.mset a w).tally = s.tally := rfl
@[simp] theorem State.mset_farOps : (s.mset a w).farOps = s.farOps := rfl
@[simp] theorem State.mset_tags : (s.mset a w).tags = s.tags := rfl
@[simp] theorem State.mset_ahead : (s.mset a w).ahead = s.ahead := rfl
@[simp] theorem State.mset_lines : (s.mset a w).lines = s.lines := rfl
@[simp] theorem State.mset_evict : (s.mset a w).evict = s.evict := rfl
@[simp] theorem State.mset_merge : (s.mset a w).merge = s.merge := rfl
@[simp] theorem State.mset_tiles : (s.mset a w).tiles = s.tiles := rfl
@[simp] theorem State.mset_poison : (s.mset a w).poison = s.poison := rfl
@[simp] theorem State.mset_eng : (s.mset a w).eng = s.eng := rfl
@[simp] theorem State.mset_arrs : (s.mset a w).arrs = s.arrs := rfl
@[simp] theorem State.mset_rowQ : (s.mset a w).rowQ = s.rowQ := rfl
@[simp] theorem State.mset_rowCur : (s.mset a w).rowCur = s.rowCur := rfl
@[simp] theorem State.mset_rowLast : (s.mset a w).rowLast = s.rowLast := rfl
@[simp] theorem State.mset_ends : (s.mset a w).ends = s.ends := rfl
@[simp] theorem State.mset_flumeOut : (s.mset a w).flumeOut = s.flumeOut := rfl
@[simp] theorem State.mset_loop : (s.mset a w).loop = s.loop := rfl
@[simp] theorem State.mset_ringWrites : (s.mset a w).ringWrites = s.ringWrites := rfl
@[simp] theorem State.mset_landWrites : (s.mset a w).landWrites = s.landWrites := rfl
@[simp] theorem State.mset_lanes : (s.mset a w).lanes = s.lanes := rfl
@[simp] theorem State.mset_movTags : (s.mset a w).movTags = s.movTags := rfl
@[simp] theorem State.mset_wardenQ : (s.mset a w).wardenQ = s.wardenQ := rfl
@[simp] theorem State.mset_notices : (s.mset a w).notices = s.notices := rfl
@[simp] theorem State.mset_noticeSeq : (s.mset a w).noticeSeq = s.noticeSeq := rfl
@[simp] theorem State.mset_faultLog : (s.mset a w).faultLog = s.faultLog := rfl
@[simp] theorem State.mset_atpQ : (s.mset a w).atpQ = s.atpQ := rfl
@[simp] theorem State.mset_atpCur : (s.mset a w).atpCur = s.atpCur := rfl
@[simp] theorem State.mset_brks : (s.mset a w).brks = s.brks := rfl
@[simp] theorem State.mset_watches : (s.mset a w).watches = s.watches := rfl
@[simp] theorem State.mset_gpOut : (s.mset a w).gpOut = s.gpOut := rfl
@[simp] theorem State.mset_nextId : (s.mset a w).nextId = s.nextId := rfl

@[simp] theorem State.tset_pending : (s.tset p i w).pending = s.pending := rfl
@[simp] theorem State.tset_pins : (s.tset p i w).pins = s.pins := rfl
@[simp] theorem State.tset_ident : (s.tset p i w).ident = s.ident := rfl
@[simp] theorem State.tset_trim : (s.tset p i w).trim = s.trim := rfl
@[simp] theorem State.tset_trimUser : (s.tset p i w).trimUser = s.trimUser := rfl
@[simp] theorem State.tset_trimSo : (s.tset p i w).trimSo = s.trimSo := rfl
@[simp] theorem State.tset_core : (s.tset p i w).core = s.core := rfl
@[simp] theorem State.tset_faultCause : (s.tset p i w).faultCause = s.faultCause := rfl
@[simp] theorem State.tset_ready : (s.tset p i w).ready = s.ready := rfl
@[simp] theorem State.tset_readySent : (s.tset p i w).readySent = s.readySent := rfl
@[simp] theorem State.tset_readyMark : (s.tset p i w).readyMark = s.readyMark := rfl
@[simp] theorem State.tset_cycle : (s.tset p i w).cycle = s.cycle := rfl
@[simp] theorem State.tset_mclk : (s.tset p i w).mclk = s.mclk := rfl
@[simp] theorem State.tset_mclkFrac : (s.tset p i w).mclkFrac = s.mclkFrac := rfl
@[simp] theorem State.tset_slotCtr : (s.tset p i w).slotCtr = s.slotCtr := rfl
@[simp] theorem State.tset_stillCtr : (s.tset p i w).stillCtr = s.stillCtr := rfl
@[simp] theorem State.tset_stillRaised : (s.tset p i w).stillRaised = s.stillRaised := rfl
@[simp] theorem State.tset_warm : (s.tset p i w).warm = s.warm := rfl
@[simp] theorem State.tset_warmDue : (s.tset p i w).warmDue = s.warmDue := rfl
@[simp] theorem State.tset_longClear : (s.tset p i w).longClear = s.longClear := rfl
@[simp] theorem State.tset_clk : (s.tset p i w).clk = s.clk := rfl
@[simp] theorem State.tset_cfg : (s.tset p i w).cfg = s.cfg := rfl
@[simp] theorem State.tset_image : (s.tset p i w).image = s.image := rfl
@[simp] theorem State.tset_clkWritten : (s.tset p i w).clkWritten = s.clkWritten := rfl
@[simp] theorem State.tset_decl : (s.tset p i w).decl = s.decl := rfl
@[simp] theorem State.tset_declNew : (s.tset p i w).declNew = s.declNew := rfl
@[simp] theorem State.tset_txn : (s.tset p i w).txn = s.txn := rfl
@[simp] theorem State.tset_threads : (s.tset p i w).threads = s.threads := rfl
@[simp] theorem State.tset_mem : (s.tset p i w).mem = s.mem := rfl
@[simp] theorem State.tset_cruiseNext : (s.tset p i w).cruiseNext = s.cruiseNext := rfl
@[simp] theorem State.tset_cruiseAge : (s.tset p i w).cruiseAge = s.cruiseAge := rfl
@[simp] theorem State.tset_tally : (s.tset p i w).tally = s.tally := rfl
@[simp] theorem State.tset_farOps : (s.tset p i w).farOps = s.farOps := rfl
@[simp] theorem State.tset_tags : (s.tset p i w).tags = s.tags := rfl
@[simp] theorem State.tset_ahead : (s.tset p i w).ahead = s.ahead := rfl
@[simp] theorem State.tset_lines : (s.tset p i w).lines = s.lines := rfl
@[simp] theorem State.tset_evict : (s.tset p i w).evict = s.evict := rfl
@[simp] theorem State.tset_merge : (s.tset p i w).merge = s.merge := rfl
@[simp] theorem State.tset_poison : (s.tset p i w).poison = s.poison := rfl
@[simp] theorem State.tset_eng : (s.tset p i w).eng = s.eng := rfl
@[simp] theorem State.tset_arrs : (s.tset p i w).arrs = s.arrs := rfl
@[simp] theorem State.tset_rowQ : (s.tset p i w).rowQ = s.rowQ := rfl
@[simp] theorem State.tset_rowCur : (s.tset p i w).rowCur = s.rowCur := rfl
@[simp] theorem State.tset_rowLast : (s.tset p i w).rowLast = s.rowLast := rfl
@[simp] theorem State.tset_ends : (s.tset p i w).ends = s.ends := rfl
@[simp] theorem State.tset_flumeOut : (s.tset p i w).flumeOut = s.flumeOut := rfl
@[simp] theorem State.tset_loop : (s.tset p i w).loop = s.loop := rfl
@[simp] theorem State.tset_ringWrites : (s.tset p i w).ringWrites = s.ringWrites := rfl
@[simp] theorem State.tset_landWrites : (s.tset p i w).landWrites = s.landWrites := rfl
@[simp] theorem State.tset_lanes : (s.tset p i w).lanes = s.lanes := rfl
@[simp] theorem State.tset_movTags : (s.tset p i w).movTags = s.movTags := rfl
@[simp] theorem State.tset_wardenQ : (s.tset p i w).wardenQ = s.wardenQ := rfl
@[simp] theorem State.tset_notices : (s.tset p i w).notices = s.notices := rfl
@[simp] theorem State.tset_noticeSeq : (s.tset p i w).noticeSeq = s.noticeSeq := rfl
@[simp] theorem State.tset_faultLog : (s.tset p i w).faultLog = s.faultLog := rfl
@[simp] theorem State.tset_atpQ : (s.tset p i w).atpQ = s.atpQ := rfl
@[simp] theorem State.tset_atpCur : (s.tset p i w).atpCur = s.atpCur := rfl
@[simp] theorem State.tset_brks : (s.tset p i w).brks = s.brks := rfl
@[simp] theorem State.tset_watches : (s.tset p i w).watches = s.watches := rfl
@[simp] theorem State.tset_gpOut : (s.tset p i w).gpOut = s.gpOut := rfl
@[simp] theorem State.tset_nextId : (s.tset p i w).nextId = s.nextId := rfl

@[simp] theorem State.setPoison_pending : (s.setPoison p b).pending = s.pending := rfl
@[simp] theorem State.setPoison_pins : (s.setPoison p b).pins = s.pins := rfl
@[simp] theorem State.setPoison_ident : (s.setPoison p b).ident = s.ident := rfl
@[simp] theorem State.setPoison_trim : (s.setPoison p b).trim = s.trim := rfl
@[simp] theorem State.setPoison_trimUser : (s.setPoison p b).trimUser = s.trimUser := rfl
@[simp] theorem State.setPoison_trimSo : (s.setPoison p b).trimSo = s.trimSo := rfl
@[simp] theorem State.setPoison_core : (s.setPoison p b).core = s.core := rfl
@[simp] theorem State.setPoison_faultCause : (s.setPoison p b).faultCause = s.faultCause := rfl
@[simp] theorem State.setPoison_ready : (s.setPoison p b).ready = s.ready := rfl
@[simp] theorem State.setPoison_readySent : (s.setPoison p b).readySent = s.readySent := rfl
@[simp] theorem State.setPoison_readyMark : (s.setPoison p b).readyMark = s.readyMark := rfl
@[simp] theorem State.setPoison_cycle : (s.setPoison p b).cycle = s.cycle := rfl
@[simp] theorem State.setPoison_mclk : (s.setPoison p b).mclk = s.mclk := rfl
@[simp] theorem State.setPoison_mclkFrac : (s.setPoison p b).mclkFrac = s.mclkFrac := rfl
@[simp] theorem State.setPoison_slotCtr : (s.setPoison p b).slotCtr = s.slotCtr := rfl
@[simp] theorem State.setPoison_stillCtr : (s.setPoison p b).stillCtr = s.stillCtr := rfl
@[simp] theorem State.setPoison_stillRaised : (s.setPoison p b).stillRaised = s.stillRaised := rfl
@[simp] theorem State.setPoison_warm : (s.setPoison p b).warm = s.warm := rfl
@[simp] theorem State.setPoison_warmDue : (s.setPoison p b).warmDue = s.warmDue := rfl
@[simp] theorem State.setPoison_longClear : (s.setPoison p b).longClear = s.longClear := rfl
@[simp] theorem State.setPoison_clk : (s.setPoison p b).clk = s.clk := rfl
@[simp] theorem State.setPoison_cfg : (s.setPoison p b).cfg = s.cfg := rfl
@[simp] theorem State.setPoison_image : (s.setPoison p b).image = s.image := rfl
@[simp] theorem State.setPoison_clkWritten : (s.setPoison p b).clkWritten = s.clkWritten := rfl
@[simp] theorem State.setPoison_decl : (s.setPoison p b).decl = s.decl := rfl
@[simp] theorem State.setPoison_declNew : (s.setPoison p b).declNew = s.declNew := rfl
@[simp] theorem State.setPoison_txn : (s.setPoison p b).txn = s.txn := rfl
@[simp] theorem State.setPoison_threads : (s.setPoison p b).threads = s.threads := rfl
@[simp] theorem State.setPoison_mem : (s.setPoison p b).mem = s.mem := rfl
@[simp] theorem State.setPoison_cruiseNext : (s.setPoison p b).cruiseNext = s.cruiseNext := rfl
@[simp] theorem State.setPoison_cruiseAge : (s.setPoison p b).cruiseAge = s.cruiseAge := rfl
@[simp] theorem State.setPoison_tally : (s.setPoison p b).tally = s.tally := rfl
@[simp] theorem State.setPoison_farOps : (s.setPoison p b).farOps = s.farOps := rfl
@[simp] theorem State.setPoison_tags : (s.setPoison p b).tags = s.tags := rfl
@[simp] theorem State.setPoison_ahead : (s.setPoison p b).ahead = s.ahead := rfl
@[simp] theorem State.setPoison_lines : (s.setPoison p b).lines = s.lines := rfl
@[simp] theorem State.setPoison_evict : (s.setPoison p b).evict = s.evict := rfl
@[simp] theorem State.setPoison_merge : (s.setPoison p b).merge = s.merge := rfl
@[simp] theorem State.setPoison_tiles : (s.setPoison p b).tiles = s.tiles := rfl
@[simp] theorem State.setPoison_eng : (s.setPoison p b).eng = s.eng := rfl
@[simp] theorem State.setPoison_arrs : (s.setPoison p b).arrs = s.arrs := rfl
@[simp] theorem State.setPoison_rowQ : (s.setPoison p b).rowQ = s.rowQ := rfl
@[simp] theorem State.setPoison_rowCur : (s.setPoison p b).rowCur = s.rowCur := rfl
@[simp] theorem State.setPoison_rowLast : (s.setPoison p b).rowLast = s.rowLast := rfl
@[simp] theorem State.setPoison_ends : (s.setPoison p b).ends = s.ends := rfl
@[simp] theorem State.setPoison_flumeOut : (s.setPoison p b).flumeOut = s.flumeOut := rfl
@[simp] theorem State.setPoison_loop : (s.setPoison p b).loop = s.loop := rfl
@[simp] theorem State.setPoison_ringWrites : (s.setPoison p b).ringWrites = s.ringWrites := rfl
@[simp] theorem State.setPoison_landWrites : (s.setPoison p b).landWrites = s.landWrites := rfl
@[simp] theorem State.setPoison_lanes : (s.setPoison p b).lanes = s.lanes := rfl
@[simp] theorem State.setPoison_movTags : (s.setPoison p b).movTags = s.movTags := rfl
@[simp] theorem State.setPoison_wardenQ : (s.setPoison p b).wardenQ = s.wardenQ := rfl
@[simp] theorem State.setPoison_notices : (s.setPoison p b).notices = s.notices := rfl
@[simp] theorem State.setPoison_noticeSeq : (s.setPoison p b).noticeSeq = s.noticeSeq := rfl
@[simp] theorem State.setPoison_faultLog : (s.setPoison p b).faultLog = s.faultLog := rfl
@[simp] theorem State.setPoison_atpQ : (s.setPoison p b).atpQ = s.atpQ := rfl
@[simp] theorem State.setPoison_atpCur : (s.setPoison p b).atpCur = s.atpCur := rfl
@[simp] theorem State.setPoison_brks : (s.setPoison p b).brks = s.brks := rfl
@[simp] theorem State.setPoison_watches : (s.setPoison p b).watches = s.watches := rfl
@[simp] theorem State.setPoison_gpOut : (s.setPoison p b).gpOut = s.gpOut := rfl
@[simp] theorem State.setPoison_nextId : (s.setPoison p b).nextId = s.nextId := rfl

@[simp] theorem State.count_pending : (s.count i n).pending = s.pending := rfl
@[simp] theorem State.count_pins : (s.count i n).pins = s.pins := rfl
@[simp] theorem State.count_ident : (s.count i n).ident = s.ident := rfl
@[simp] theorem State.count_trim : (s.count i n).trim = s.trim := rfl
@[simp] theorem State.count_trimUser : (s.count i n).trimUser = s.trimUser := rfl
@[simp] theorem State.count_trimSo : (s.count i n).trimSo = s.trimSo := rfl
@[simp] theorem State.count_core : (s.count i n).core = s.core := rfl
@[simp] theorem State.count_faultCause : (s.count i n).faultCause = s.faultCause := rfl
@[simp] theorem State.count_ready : (s.count i n).ready = s.ready := rfl
@[simp] theorem State.count_readySent : (s.count i n).readySent = s.readySent := rfl
@[simp] theorem State.count_readyMark : (s.count i n).readyMark = s.readyMark := rfl
@[simp] theorem State.count_cycle : (s.count i n).cycle = s.cycle := rfl
@[simp] theorem State.count_mclk : (s.count i n).mclk = s.mclk := rfl
@[simp] theorem State.count_mclkFrac : (s.count i n).mclkFrac = s.mclkFrac := rfl
@[simp] theorem State.count_slotCtr : (s.count i n).slotCtr = s.slotCtr := rfl
@[simp] theorem State.count_stillCtr : (s.count i n).stillCtr = s.stillCtr := rfl
@[simp] theorem State.count_stillRaised : (s.count i n).stillRaised = s.stillRaised := rfl
@[simp] theorem State.count_warm : (s.count i n).warm = s.warm := rfl
@[simp] theorem State.count_warmDue : (s.count i n).warmDue = s.warmDue := rfl
@[simp] theorem State.count_longClear : (s.count i n).longClear = s.longClear := rfl
@[simp] theorem State.count_clk : (s.count i n).clk = s.clk := rfl
@[simp] theorem State.count_cfg : (s.count i n).cfg = s.cfg := rfl
@[simp] theorem State.count_image : (s.count i n).image = s.image := rfl
@[simp] theorem State.count_clkWritten : (s.count i n).clkWritten = s.clkWritten := rfl
@[simp] theorem State.count_decl : (s.count i n).decl = s.decl := rfl
@[simp] theorem State.count_declNew : (s.count i n).declNew = s.declNew := rfl
@[simp] theorem State.count_txn : (s.count i n).txn = s.txn := rfl
@[simp] theorem State.count_threads : (s.count i n).threads = s.threads := rfl
@[simp] theorem State.count_mem : (s.count i n).mem = s.mem := rfl
@[simp] theorem State.count_cruiseNext : (s.count i n).cruiseNext = s.cruiseNext := rfl
@[simp] theorem State.count_cruiseAge : (s.count i n).cruiseAge = s.cruiseAge := rfl
@[simp] theorem State.count_farOps : (s.count i n).farOps = s.farOps := rfl
@[simp] theorem State.count_tags : (s.count i n).tags = s.tags := rfl
@[simp] theorem State.count_ahead : (s.count i n).ahead = s.ahead := rfl
@[simp] theorem State.count_lines : (s.count i n).lines = s.lines := rfl
@[simp] theorem State.count_evict : (s.count i n).evict = s.evict := rfl
@[simp] theorem State.count_merge : (s.count i n).merge = s.merge := rfl
@[simp] theorem State.count_tiles : (s.count i n).tiles = s.tiles := rfl
@[simp] theorem State.count_poison : (s.count i n).poison = s.poison := rfl
@[simp] theorem State.count_eng : (s.count i n).eng = s.eng := rfl
@[simp] theorem State.count_arrs : (s.count i n).arrs = s.arrs := rfl
@[simp] theorem State.count_rowQ : (s.count i n).rowQ = s.rowQ := rfl
@[simp] theorem State.count_rowCur : (s.count i n).rowCur = s.rowCur := rfl
@[simp] theorem State.count_rowLast : (s.count i n).rowLast = s.rowLast := rfl
@[simp] theorem State.count_ends : (s.count i n).ends = s.ends := rfl
@[simp] theorem State.count_flumeOut : (s.count i n).flumeOut = s.flumeOut := rfl
@[simp] theorem State.count_loop : (s.count i n).loop = s.loop := rfl
@[simp] theorem State.count_ringWrites : (s.count i n).ringWrites = s.ringWrites := rfl
@[simp] theorem State.count_landWrites : (s.count i n).landWrites = s.landWrites := rfl
@[simp] theorem State.count_lanes : (s.count i n).lanes = s.lanes := rfl
@[simp] theorem State.count_movTags : (s.count i n).movTags = s.movTags := rfl
@[simp] theorem State.count_wardenQ : (s.count i n).wardenQ = s.wardenQ := rfl
@[simp] theorem State.count_notices : (s.count i n).notices = s.notices := rfl
@[simp] theorem State.count_noticeSeq : (s.count i n).noticeSeq = s.noticeSeq := rfl
@[simp] theorem State.count_faultLog : (s.count i n).faultLog = s.faultLog := rfl
@[simp] theorem State.count_atpQ : (s.count i n).atpQ = s.atpQ := rfl
@[simp] theorem State.count_atpCur : (s.count i n).atpCur = s.atpCur := rfl
@[simp] theorem State.count_brks : (s.count i n).brks = s.brks := rfl
@[simp] theorem State.count_watches : (s.count i n).watches = s.watches := rfl
@[simp] theorem State.count_gpOut : (s.count i n).gpOut = s.gpOut := rfl
@[simp] theorem State.count_nextId : (s.count i n).nextId = s.nextId := rfl

@[simp] theorem State.setThr_live : (s.setThr t th).live = s.live := rfl
@[simp] theorem State.setThr_runs : (s.setThr t th).runs = s.runs := rfl
@[simp] theorem State.setThr_flows : (s.setThr t th).flows = s.flows := rfl
@[simp] theorem State.setThr_nThr : (s.setThr t th).nThr = s.nThr := rfl
@[simp] theorem State.setThr_small : (s.setThr t th).small = s.small := rfl
@[simp] theorem State.setThr_warden : (s.setThr t th).warden = s.warden := rfl
@[simp] theorem State.setThr_arr (j : Nat) : (s.setThr t th).arr j = s.arr j := rfl
@[simp] theorem State.setThr_fend (j : Nat) : (s.setThr t th).fend j = s.fend j := rfl
@[simp] theorem State.setThr_lane (j : Nat) : (s.setThr t th).lane j = s.lane j := rfl
@[simp] theorem State.setThr_engQ (j : Nat) : (s.setThr t th).engQ j = s.engQ j := rfl
@[simp] theorem State.setThr_mget (j : Nat) : (s.setThr t th).mget j = s.mget j := rfl
@[simp] theorem State.setThr_tget (j k : Nat) : (s.setThr t th).tget j k = s.tget j k := rfl
@[simp] theorem State.setThr_poisoned (j : Nat) : (s.setThr t th).poisoned j = s.poisoned j := rfl
@[simp] theorem State.modThr_live : (s.modThr t ft).live = s.live := rfl
@[simp] theorem State.modThr_runs : (s.modThr t ft).runs = s.runs := rfl
@[simp] theorem State.modThr_flows : (s.modThr t ft).flows = s.flows := rfl
@[simp] theorem State.modThr_nThr : (s.modThr t ft).nThr = s.nThr := rfl
@[simp] theorem State.modThr_small : (s.modThr t ft).small = s.small := rfl
@[simp] theorem State.modThr_warden : (s.modThr t ft).warden = s.warden := rfl
@[simp] theorem State.modThr_arr (j : Nat) : (s.modThr t ft).arr j = s.arr j := rfl
@[simp] theorem State.modThr_fend (j : Nat) : (s.modThr t ft).fend j = s.fend j := rfl
@[simp] theorem State.modThr_lane (j : Nat) : (s.modThr t ft).lane j = s.lane j := rfl
@[simp] theorem State.modThr_engQ (j : Nat) : (s.modThr t ft).engQ j = s.engQ j := rfl
@[simp] theorem State.modThr_mget (j : Nat) : (s.modThr t ft).mget j = s.mget j := rfl
@[simp] theorem State.modThr_tget (j k : Nat) : (s.modThr t ft).tget j k = s.tget j k := rfl
@[simp] theorem State.modThr_poisoned (j : Nat) : (s.modThr t ft).poisoned j = s.poisoned j := rfl
@[simp] theorem State.setArr_live : (s.setArr a ar).live = s.live := rfl
@[simp] theorem State.setArr_runs : (s.setArr a ar).runs = s.runs := rfl
@[simp] theorem State.setArr_flows : (s.setArr a ar).flows = s.flows := rfl
@[simp] theorem State.setArr_nThr : (s.setArr a ar).nThr = s.nThr := rfl
@[simp] theorem State.setArr_small : (s.setArr a ar).small = s.small := rfl
@[simp] theorem State.setArr_warden : (s.setArr a ar).warden = s.warden := rfl
@[simp] theorem State.setArr_thr (j : Nat) : (s.setArr a ar).thr j = s.thr j := rfl
@[simp] theorem State.setArr_fend (j : Nat) : (s.setArr a ar).fend j = s.fend j := rfl
@[simp] theorem State.setArr_lane (j : Nat) : (s.setArr a ar).lane j = s.lane j := rfl
@[simp] theorem State.setArr_engQ (j : Nat) : (s.setArr a ar).engQ j = s.engQ j := rfl
@[simp] theorem State.setArr_mget (j : Nat) : (s.setArr a ar).mget j = s.mget j := rfl
@[simp] theorem State.setArr_tget (j k : Nat) : (s.setArr a ar).tget j k = s.tget j k := rfl
@[simp] theorem State.setArr_poisoned (j : Nat) : (s.setArr a ar).poisoned j = s.poisoned j := rfl
@[simp] theorem State.modArr_live : (s.modArr a fa).live = s.live := rfl
@[simp] theorem State.modArr_runs : (s.modArr a fa).runs = s.runs := rfl
@[simp] theorem State.modArr_flows : (s.modArr a fa).flows = s.flows := rfl
@[simp] theorem State.modArr_nThr : (s.modArr a fa).nThr = s.nThr := rfl
@[simp] theorem State.modArr_small : (s.modArr a fa).small = s.small := rfl
@[simp] theorem State.modArr_warden : (s.modArr a fa).warden = s.warden := rfl
@[simp] theorem State.modArr_thr (j : Nat) : (s.modArr a fa).thr j = s.thr j := rfl
@[simp] theorem State.modArr_fend (j : Nat) : (s.modArr a fa).fend j = s.fend j := rfl
@[simp] theorem State.modArr_lane (j : Nat) : (s.modArr a fa).lane j = s.lane j := rfl
@[simp] theorem State.modArr_engQ (j : Nat) : (s.modArr a fa).engQ j = s.engQ j := rfl
@[simp] theorem State.modArr_mget (j : Nat) : (s.modArr a fa).mget j = s.mget j := rfl
@[simp] theorem State.modArr_tget (j k : Nat) : (s.modArr a fa).tget j k = s.tget j k := rfl
@[simp] theorem State.modArr_poisoned (j : Nat) : (s.modArr a fa).poisoned j = s.poisoned j := rfl
@[simp] theorem State.setEnd_live : (s.setEnd e fe).live = s.live := rfl
@[simp] theorem State.setEnd_runs : (s.setEnd e fe).runs = s.runs := rfl
@[simp] theorem State.setEnd_flows : (s.setEnd e fe).flows = s.flows := rfl
@[simp] theorem State.setEnd_nThr : (s.setEnd e fe).nThr = s.nThr := rfl
@[simp] theorem State.setEnd_small : (s.setEnd e fe).small = s.small := rfl
@[simp] theorem State.setEnd_warden : (s.setEnd e fe).warden = s.warden := rfl
@[simp] theorem State.setEnd_thr (j : Nat) : (s.setEnd e fe).thr j = s.thr j := rfl
@[simp] theorem State.setEnd_arr (j : Nat) : (s.setEnd e fe).arr j = s.arr j := rfl
@[simp] theorem State.setEnd_lane (j : Nat) : (s.setEnd e fe).lane j = s.lane j := rfl
@[simp] theorem State.setEnd_engQ (j : Nat) : (s.setEnd e fe).engQ j = s.engQ j := rfl
@[simp] theorem State.setEnd_mget (j : Nat) : (s.setEnd e fe).mget j = s.mget j := rfl
@[simp] theorem State.setEnd_tget (j k : Nat) : (s.setEnd e fe).tget j k = s.tget j k := rfl
@[simp] theorem State.setEnd_poisoned (j : Nat) : (s.setEnd e fe).poisoned j = s.poisoned j := rfl
@[simp] theorem State.modEnd_live : (s.modEnd e fE).live = s.live := rfl
@[simp] theorem State.modEnd_runs : (s.modEnd e fE).runs = s.runs := rfl
@[simp] theorem State.modEnd_flows : (s.modEnd e fE).flows = s.flows := rfl
@[simp] theorem State.modEnd_nThr : (s.modEnd e fE).nThr = s.nThr := rfl
@[simp] theorem State.modEnd_small : (s.modEnd e fE).small = s.small := rfl
@[simp] theorem State.modEnd_warden : (s.modEnd e fE).warden = s.warden := rfl
@[simp] theorem State.modEnd_thr (j : Nat) : (s.modEnd e fE).thr j = s.thr j := rfl
@[simp] theorem State.modEnd_arr (j : Nat) : (s.modEnd e fE).arr j = s.arr j := rfl
@[simp] theorem State.modEnd_lane (j : Nat) : (s.modEnd e fE).lane j = s.lane j := rfl
@[simp] theorem State.modEnd_engQ (j : Nat) : (s.modEnd e fE).engQ j = s.engQ j := rfl
@[simp] theorem State.modEnd_mget (j : Nat) : (s.modEnd e fE).mget j = s.mget j := rfl
@[simp] theorem State.modEnd_tget (j k : Nat) : (s.modEnd e fE).tget j k = s.tget j k := rfl
@[simp] theorem State.modEnd_poisoned (j : Nat) : (s.modEnd e fE).poisoned j = s.poisoned j := rfl
@[simp] theorem State.setLane_live : (s.setLane n ln).live = s.live := rfl
@[simp] theorem State.setLane_runs : (s.setLane n ln).runs = s.runs := rfl
@[simp] theorem State.setLane_flows : (s.setLane n ln).flows = s.flows := rfl
@[simp] theorem State.setLane_nThr : (s.setLane n ln).nThr = s.nThr := rfl
@[simp] theorem State.setLane_small : (s.setLane n ln).small = s.small := rfl
@[simp] theorem State.setLane_warden : (s.setLane n ln).warden = s.warden := rfl
@[simp] theorem State.setLane_thr (j : Nat) : (s.setLane n ln).thr j = s.thr j := rfl
@[simp] theorem State.setLane_arr (j : Nat) : (s.setLane n ln).arr j = s.arr j := rfl
@[simp] theorem State.setLane_fend (j : Nat) : (s.setLane n ln).fend j = s.fend j := rfl
@[simp] theorem State.setLane_engQ (j : Nat) : (s.setLane n ln).engQ j = s.engQ j := rfl
@[simp] theorem State.setLane_mget (j : Nat) : (s.setLane n ln).mget j = s.mget j := rfl
@[simp] theorem State.setLane_tget (j k : Nat) : (s.setLane n ln).tget j k = s.tget j k := rfl
@[simp] theorem State.setLane_poisoned (j : Nat) : (s.setLane n ln).poisoned j = s.poisoned j := rfl
@[simp] theorem State.modLane_live : (s.modLane n fl).live = s.live := rfl
@[simp] theorem State.modLane_runs : (s.modLane n fl).runs = s.runs := rfl
@[simp] theorem State.modLane_flows : (s.modLane n fl).flows = s.flows := rfl
@[simp] theorem State.modLane_nThr : (s.modLane n fl).nThr = s.nThr := rfl
@[simp] theorem State.modLane_small : (s.modLane n fl).small = s.small := rfl
@[simp] theorem State.modLane_warden : (s.modLane n fl).warden = s.warden := rfl
@[simp] theorem State.modLane_thr (j : Nat) : (s.modLane n fl).thr j = s.thr j := rfl
@[simp] theorem State.modLane_arr (j : Nat) : (s.modLane n fl).arr j = s.arr j := rfl
@[simp] theorem State.modLane_fend (j : Nat) : (s.modLane n fl).fend j = s.fend j := rfl
@[simp] theorem State.modLane_engQ (j : Nat) : (s.modLane n fl).engQ j = s.engQ j := rfl
@[simp] theorem State.modLane_mget (j : Nat) : (s.modLane n fl).mget j = s.mget j := rfl
@[simp] theorem State.modLane_tget (j k : Nat) : (s.modLane n fl).tget j k = s.tget j k := rfl
@[simp] theorem State.modLane_poisoned (j : Nat) : (s.modLane n fl).poisoned j = s.poisoned j := rfl
@[simp] theorem State.setEng_live : (s.setEng x q).live = s.live := rfl
@[simp] theorem State.setEng_runs : (s.setEng x q).runs = s.runs := rfl
@[simp] theorem State.setEng_flows : (s.setEng x q).flows = s.flows := rfl
@[simp] theorem State.setEng_nThr : (s.setEng x q).nThr = s.nThr := rfl
@[simp] theorem State.setEng_small : (s.setEng x q).small = s.small := rfl
@[simp] theorem State.setEng_warden : (s.setEng x q).warden = s.warden := rfl
@[simp] theorem State.setEng_thr (j : Nat) : (s.setEng x q).thr j = s.thr j := rfl
@[simp] theorem State.setEng_arr (j : Nat) : (s.setEng x q).arr j = s.arr j := rfl
@[simp] theorem State.setEng_fend (j : Nat) : (s.setEng x q).fend j = s.fend j := rfl
@[simp] theorem State.setEng_lane (j : Nat) : (s.setEng x q).lane j = s.lane j := rfl
@[simp] theorem State.setEng_mget (j : Nat) : (s.setEng x q).mget j = s.mget j := rfl
@[simp] theorem State.setEng_tget (j k : Nat) : (s.setEng x q).tget j k = s.tget j k := rfl
@[simp] theorem State.setEng_poisoned (j : Nat) : (s.setEng x q).poisoned j = s.poisoned j := rfl
@[simp] theorem State.mset_live : (s.mset a w).live = s.live := rfl
@[simp] theorem State.mset_runs : (s.mset a w).runs = s.runs := rfl
@[simp] theorem State.mset_flows : (s.mset a w).flows = s.flows := rfl
@[simp] theorem State.mset_nThr : (s.mset a w).nThr = s.nThr := rfl
@[simp] theorem State.mset_small : (s.mset a w).small = s.small := rfl
@[simp] theorem State.mset_warden : (s.mset a w).warden = s.warden := rfl
@[simp] theorem State.mset_thr (j : Nat) : (s.mset a w).thr j = s.thr j := rfl
@[simp] theorem State.mset_arr (j : Nat) : (s.mset a w).arr j = s.arr j := rfl
@[simp] theorem State.mset_fend (j : Nat) : (s.mset a w).fend j = s.fend j := rfl
@[simp] theorem State.mset_lane (j : Nat) : (s.mset a w).lane j = s.lane j := rfl
@[simp] theorem State.mset_engQ (j : Nat) : (s.mset a w).engQ j = s.engQ j := rfl
@[simp] theorem State.mset_tget (j k : Nat) : (s.mset a w).tget j k = s.tget j k := rfl
@[simp] theorem State.mset_poisoned (j : Nat) : (s.mset a w).poisoned j = s.poisoned j := rfl
@[simp] theorem State.tset_live : (s.tset p i w).live = s.live := rfl
@[simp] theorem State.tset_runs : (s.tset p i w).runs = s.runs := rfl
@[simp] theorem State.tset_flows : (s.tset p i w).flows = s.flows := rfl
@[simp] theorem State.tset_nThr : (s.tset p i w).nThr = s.nThr := rfl
@[simp] theorem State.tset_small : (s.tset p i w).small = s.small := rfl
@[simp] theorem State.tset_warden : (s.tset p i w).warden = s.warden := rfl
@[simp] theorem State.tset_thr (j : Nat) : (s.tset p i w).thr j = s.thr j := rfl
@[simp] theorem State.tset_arr (j : Nat) : (s.tset p i w).arr j = s.arr j := rfl
@[simp] theorem State.tset_fend (j : Nat) : (s.tset p i w).fend j = s.fend j := rfl
@[simp] theorem State.tset_lane (j : Nat) : (s.tset p i w).lane j = s.lane j := rfl
@[simp] theorem State.tset_engQ (j : Nat) : (s.tset p i w).engQ j = s.engQ j := rfl
@[simp] theorem State.tset_mget (j : Nat) : (s.tset p i w).mget j = s.mget j := rfl
@[simp] theorem State.tset_poisoned (j : Nat) : (s.tset p i w).poisoned j = s.poisoned j := rfl
@[simp] theorem State.setPoison_live : (s.setPoison p b).live = s.live := rfl
@[simp] theorem State.setPoison_runs : (s.setPoison p b).runs = s.runs := rfl
@[simp] theorem State.setPoison_flows : (s.setPoison p b).flows = s.flows := rfl
@[simp] theorem State.setPoison_nThr : (s.setPoison p b).nThr = s.nThr := rfl
@[simp] theorem State.setPoison_small : (s.setPoison p b).small = s.small := rfl
@[simp] theorem State.setPoison_warden : (s.setPoison p b).warden = s.warden := rfl
@[simp] theorem State.setPoison_thr (j : Nat) : (s.setPoison p b).thr j = s.thr j := rfl
@[simp] theorem State.setPoison_arr (j : Nat) : (s.setPoison p b).arr j = s.arr j := rfl
@[simp] theorem State.setPoison_fend (j : Nat) : (s.setPoison p b).fend j = s.fend j := rfl
@[simp] theorem State.setPoison_lane (j : Nat) : (s.setPoison p b).lane j = s.lane j := rfl
@[simp] theorem State.setPoison_engQ (j : Nat) : (s.setPoison p b).engQ j = s.engQ j := rfl
@[simp] theorem State.setPoison_mget (j : Nat) : (s.setPoison p b).mget j = s.mget j := rfl
@[simp] theorem State.setPoison_tget (j k : Nat) : (s.setPoison p b).tget j k = s.tget j k := rfl
@[simp] theorem State.count_live : (s.count i n).live = s.live := rfl
@[simp] theorem State.count_runs : (s.count i n).runs = s.runs := rfl
@[simp] theorem State.count_flows : (s.count i n).flows = s.flows := rfl
@[simp] theorem State.count_nThr : (s.count i n).nThr = s.nThr := rfl
@[simp] theorem State.count_small : (s.count i n).small = s.small := rfl
@[simp] theorem State.count_warden : (s.count i n).warden = s.warden := rfl
@[simp] theorem State.count_thr (j : Nat) : (s.count i n).thr j = s.thr j := rfl
@[simp] theorem State.count_arr (j : Nat) : (s.count i n).arr j = s.arr j := rfl
@[simp] theorem State.count_fend (j : Nat) : (s.count i n).fend j = s.fend j := rfl
@[simp] theorem State.count_lane (j : Nat) : (s.count i n).lane j = s.lane j := rfl
@[simp] theorem State.count_engQ (j : Nat) : (s.count i n).engQ j = s.engQ j := rfl
@[simp] theorem State.count_mget (j : Nat) : (s.count i n).mget j = s.mget j := rfl
@[simp] theorem State.count_tget (j k : Nat) : (s.count i n).tget j k = s.tget j k := rfl
@[simp] theorem State.count_poisoned (j : Nat) : (s.count i n).poisoned j = s.poisoned j := rfl

end

section
variable (th : Thread) (i n k : Nat) (w : Word) (v : Word32)

@[simp] theorem Thread.setCtl_pc : (th.setCtl i w).pc = th.pc := rfl
@[simp] theorem Thread.setCtl_dla : (th.setCtl i w).dla = th.dla := rfl
@[simp] theorem Thread.setCtl_dlb : (th.setCtl i w).dlb = th.dlb := rfl
@[simp] theorem Thread.setCtl_owes : (th.setCtl i w).owes = th.owes := rfl
@[simp] theorem Thread.setCtl_takesItems : (th.setCtl i w).takesItems = th.takesItems := rfl
@[simp] theorem Thread.setCtl_regP : (th.setCtl i w).regP k = th.regP k := rfl
@[simp] theorem Thread.setCtl_st : (th.setCtl i w).st = th.st := rfl
@[simp] theorem Thread.setCtl_pcw : (th.setCtl i w).pcw = th.pcw := rfl
@[simp] theorem Thread.setCtl_slotNo : (th.setCtl i w).slotNo = th.slotNo := rfl
@[simp] theorem Thread.setCtl_regs : (th.setCtl i w).regs = th.regs := rfl
@[simp] theorem Thread.setCtl_act : (th.setCtl i w).act = th.act := rfl
@[simp] theorem Thread.setCtl_dlaw : (th.setCtl i w).dlaw = th.dlaw := rfl
@[simp] theorem Thread.setCtl_dlbw : (th.setCtl i w).dlbw = th.dlbw := rfl
@[simp] theorem Thread.setCtl_dlaDue : (th.setCtl i w).dlaDue = th.dlaDue := rfl
@[simp] theorem Thread.setCtl_dlbDue : (th.setCtl i w).dlbDue = th.dlbDue := rfl
@[simp] theorem Thread.setCtl_dlaCap : (th.setCtl i w).dlaCap = th.dlaCap := rfl
@[simp] theorem Thread.setCtl_dlbCap : (th.setCtl i w).dlbCap = th.dlbCap := rfl
@[simp] theorem Thread.setCtl_tallyBy : (th.setCtl i w).tallyBy = th.tallyBy := rfl
@[simp] theorem Thread.setCtl_regBy : (th.setCtl i w).regBy = th.regBy := rfl
@[simp] theorem Thread.setCtl_tidBad : (th.setCtl i w).tidBad = th.tidBad := rfl
@[simp] theorem Thread.setCtl_dlbBound : (th.setCtl i w).dlbBound = th.dlbBound := rfl
@[simp] theorem Thread.setCtl_lfill : (th.setCtl i w).lfill = th.lfill := rfl
@[simp] theorem Thread.setCtl_sfill : (th.setCtl i w).sfill = th.sfill := rfl
@[simp] theorem Thread.setCtl_shapes : (th.setCtl i w).shapes = th.shapes := rfl
@[simp] theorem Thread.setCtl_pshapes : (th.setCtl i w).pshapes = th.pshapes := rfl
@[simp] theorem Thread.setCtl_park : (th.setCtl i w).park = th.park := rfl
@[simp] theorem Thread.setCtl_waiting : (th.setCtl i w).waiting = th.waiting := rfl
@[simp] theorem Thread.setCtl_again : (th.setCtl i w).again = th.again := rfl
@[simp] theorem Thread.setCtl_inPlace : (th.setCtl i w).inPlace = th.inPlace := rfl
@[simp] theorem Thread.setCtl_desc : (th.setCtl i w).desc = th.desc := rfl
@[simp] theorem Thread.setCtl_ops : (th.setCtl i w).ops = th.ops := rfl
@[simp] theorem Thread.setCtl_held : (th.setCtl i w).held = th.held := rfl
@[simp] theorem Thread.setCtl_rep : (th.setCtl i w).rep = th.rep := rfl
@[simp] theorem Thread.setCtl_sync : (th.setCtl i w).sync = th.sync := rfl
@[simp] theorem Thread.setCtl_compl : (th.setCtl i w).compl = th.compl := rfl
@[simp] theorem Thread.setCtl_complMore : (th.setCtl i w).complMore = th.complMore := rfl
@[simp] theorem Thread.setCtl_late : (th.setCtl i w).late = th.late := rfl
@[simp] theorem Thread.setCtl_lateMore : (th.setCtl i w).lateMore = th.lateMore := rfl
@[simp] theorem Thread.setCtl_deadlines : (th.setCtl i w).deadlines = th.deadlines := rfl
@[simp] theorem Thread.setCtl_still : (th.setCtl i w).still = th.still := rfl
@[simp] theorem Thread.setCtl_tvoid : (th.setCtl i w).tvoid = th.tvoid := rfl
@[simp] theorem Thread.setCtl_haltReq : (th.setCtl i w).haltReq = th.haltReq := rfl
@[simp] theorem Thread.setCtl_stepping : (th.setCtl i w).stepping = th.stepping := rfl
@[simp] theorem Thread.setCtl_skipBreak : (th.setCtl i w).skipBreak = th.skipBreak := rfl
@[simp] theorem Thread.setCtl_skipWatch : (th.setCtl i w).skipWatch = th.skipWatch := rfl
@[simp] theorem Thread.setCtl_framePsw : (th.setCtl i w).framePsw = th.framePsw := rfl
@[simp] theorem Thread.setCtl_commitHold : (th.setCtl i w).commitHold = th.commitHold := rfl
@[simp] theorem Thread.setCtl_service : (th.setCtl i w).service = th.service := rfl
@[simp] theorem Thread.setCtl_notifyAge : (th.setCtl i w).notifyAge = th.notifyAge := rfl
@[simp] theorem Thread.setCtl_lastgasp : (th.setCtl i w).lastgasp = th.lastgasp := rfl

@[simp] theorem Thread.setRegN_pc : (th.setRegN n w).pc = th.pc := rfl
@[simp] theorem Thread.setRegN_dla : (th.setRegN n w).dla = th.dla := rfl
@[simp] theorem Thread.setRegN_dlb : (th.setRegN n w).dlb = th.dlb := rfl
@[simp] theorem Thread.setRegN_psw : (th.setRegN n w).psw = th.psw := rfl
@[simp] theorem Thread.setRegN_mask : (th.setRegN n w).mask = th.mask := rfl
@[simp] theorem Thread.setRegN_sup : (th.setRegN n w).sup = th.sup := rfl
@[simp] theorem Thread.setRegN_esc : (th.setRegN n w).esc = th.esc := rfl
@[simp] theorem Thread.setRegN_precise : (th.setRegN n w).precise = th.precise := rfl
@[simp] theorem Thread.setRegN_wp : (th.setRegN n w).wp = th.wp := rfl
@[simp] theorem Thread.setRegN_wt : (th.setRegN n w).wt = th.wt := rfl
@[simp] theorem Thread.setRegN_world : (th.setRegN n w).world = th.world := rfl
@[simp] theorem Thread.setRegN_mres : (th.setRegN n w).mres = th.mres := rfl
@[simp] theorem Thread.setRegN_owes : (th.setRegN n w).owes = th.owes := rfl
@[simp] theorem Thread.setRegN_takesItems : (th.setRegN n w).takesItems = th.takesItems := rfl
@[simp] theorem Thread.setRegN_ctlP : (th.setRegN n w).ctlP k = th.ctlP k := rfl
@[simp] theorem Thread.setRegN_ctlW : (th.setRegN n w).ctlW k = th.ctlW k := rfl
@[simp] theorem Thread.setRegN_st : (th.setRegN n w).st = th.st := rfl
@[simp] theorem Thread.setRegN_pcw : (th.setRegN n w).pcw = th.pcw := rfl
@[simp] theorem Thread.setRegN_slotNo : (th.setRegN n w).slotNo = th.slotNo := rfl
@[simp] theorem Thread.setRegN_ctl : (th.setRegN n w).ctl = th.ctl := rfl
@[simp] theorem Thread.setRegN_act : (th.setRegN n w).act = th.act := rfl
@[simp] theorem Thread.setRegN_dlaw : (th.setRegN n w).dlaw = th.dlaw := rfl
@[simp] theorem Thread.setRegN_dlbw : (th.setRegN n w).dlbw = th.dlbw := rfl
@[simp] theorem Thread.setRegN_dlaDue : (th.setRegN n w).dlaDue = th.dlaDue := rfl
@[simp] theorem Thread.setRegN_dlbDue : (th.setRegN n w).dlbDue = th.dlbDue := rfl
@[simp] theorem Thread.setRegN_dlaCap : (th.setRegN n w).dlaCap = th.dlaCap := rfl
@[simp] theorem Thread.setRegN_dlbCap : (th.setRegN n w).dlbCap = th.dlbCap := rfl
@[simp] theorem Thread.setRegN_tallyBy : (th.setRegN n w).tallyBy = th.tallyBy := rfl
@[simp] theorem Thread.setRegN_regBy : (th.setRegN n w).regBy = th.regBy := rfl
@[simp] theorem Thread.setRegN_tidBad : (th.setRegN n w).tidBad = th.tidBad := rfl
@[simp] theorem Thread.setRegN_dlbBound : (th.setRegN n w).dlbBound = th.dlbBound := rfl
@[simp] theorem Thread.setRegN_lfill : (th.setRegN n w).lfill = th.lfill := rfl
@[simp] theorem Thread.setRegN_sfill : (th.setRegN n w).sfill = th.sfill := rfl
@[simp] theorem Thread.setRegN_shapes : (th.setRegN n w).shapes = th.shapes := rfl
@[simp] theorem Thread.setRegN_pshapes : (th.setRegN n w).pshapes = th.pshapes := rfl
@[simp] theorem Thread.setRegN_park : (th.setRegN n w).park = th.park := rfl
@[simp] theorem Thread.setRegN_waiting : (th.setRegN n w).waiting = th.waiting := rfl
@[simp] theorem Thread.setRegN_again : (th.setRegN n w).again = th.again := rfl
@[simp] theorem Thread.setRegN_inPlace : (th.setRegN n w).inPlace = th.inPlace := rfl
@[simp] theorem Thread.setRegN_desc : (th.setRegN n w).desc = th.desc := rfl
@[simp] theorem Thread.setRegN_ops : (th.setRegN n w).ops = th.ops := rfl
@[simp] theorem Thread.setRegN_held : (th.setRegN n w).held = th.held := rfl
@[simp] theorem Thread.setRegN_rep : (th.setRegN n w).rep = th.rep := rfl
@[simp] theorem Thread.setRegN_sync : (th.setRegN n w).sync = th.sync := rfl
@[simp] theorem Thread.setRegN_compl : (th.setRegN n w).compl = th.compl := rfl
@[simp] theorem Thread.setRegN_complMore : (th.setRegN n w).complMore = th.complMore := rfl
@[simp] theorem Thread.setRegN_late : (th.setRegN n w).late = th.late := rfl
@[simp] theorem Thread.setRegN_lateMore : (th.setRegN n w).lateMore = th.lateMore := rfl
@[simp] theorem Thread.setRegN_deadlines : (th.setRegN n w).deadlines = th.deadlines := rfl
@[simp] theorem Thread.setRegN_still : (th.setRegN n w).still = th.still := rfl
@[simp] theorem Thread.setRegN_tvoid : (th.setRegN n w).tvoid = th.tvoid := rfl
@[simp] theorem Thread.setRegN_haltReq : (th.setRegN n w).haltReq = th.haltReq := rfl
@[simp] theorem Thread.setRegN_stepping : (th.setRegN n w).stepping = th.stepping := rfl
@[simp] theorem Thread.setRegN_skipBreak : (th.setRegN n w).skipBreak = th.skipBreak := rfl
@[simp] theorem Thread.setRegN_skipWatch : (th.setRegN n w).skipWatch = th.skipWatch := rfl
@[simp] theorem Thread.setRegN_framePsw : (th.setRegN n w).framePsw = th.framePsw := rfl
@[simp] theorem Thread.setRegN_commitHold : (th.setRegN n w).commitHold = th.commitHold := rfl
@[simp] theorem Thread.setRegN_service : (th.setRegN n w).service = th.service := rfl
@[simp] theorem Thread.setRegN_notifyAge : (th.setRegN n w).notifyAge = th.notifyAge := rfl
@[simp] theorem Thread.setRegN_lastgasp : (th.setRegN n w).lastgasp = th.lastgasp := rfl

@[simp] theorem Thread.setPc_dla : (th.setPc w).dla = th.dla := rfl
@[simp] theorem Thread.setPc_dlb : (th.setPc w).dlb = th.dlb := rfl
@[simp] theorem Thread.setPc_psw : (th.setPc w).psw = th.psw := rfl
@[simp] theorem Thread.setPc_mask : (th.setPc w).mask = th.mask := rfl
@[simp] theorem Thread.setPc_sup : (th.setPc w).sup = th.sup := rfl
@[simp] theorem Thread.setPc_esc : (th.setPc w).esc = th.esc := rfl
@[simp] theorem Thread.setPc_precise : (th.setPc w).precise = th.precise := rfl
@[simp] theorem Thread.setPc_wp : (th.setPc w).wp = th.wp := rfl
@[simp] theorem Thread.setPc_wt : (th.setPc w).wt = th.wt := rfl
@[simp] theorem Thread.setPc_world : (th.setPc w).world = th.world := rfl
@[simp] theorem Thread.setPc_mres : (th.setPc w).mres = th.mres := rfl
@[simp] theorem Thread.setPc_owes : (th.setPc w).owes = th.owes := rfl
@[simp] theorem Thread.setPc_takesItems : (th.setPc w).takesItems = th.takesItems := rfl
@[simp] theorem Thread.setPc_regP : (th.setPc w).regP k = th.regP k := rfl
@[simp] theorem Thread.setPc_ctlP : (th.setPc w).ctlP k = th.ctlP k := rfl
@[simp] theorem Thread.setPc_ctlW : (th.setPc w).ctlW k = th.ctlW k := rfl
@[simp] theorem Thread.setPc_st : (th.setPc w).st = th.st := rfl
@[simp] theorem Thread.setPc_slotNo : (th.setPc w).slotNo = th.slotNo := rfl
@[simp] theorem Thread.setPc_regs : (th.setPc w).regs = th.regs := rfl
@[simp] theorem Thread.setPc_ctl : (th.setPc w).ctl = th.ctl := rfl
@[simp] theorem Thread.setPc_act : (th.setPc w).act = th.act := rfl
@[simp] theorem Thread.setPc_dlaw : (th.setPc w).dlaw = th.dlaw := rfl
@[simp] theorem Thread.setPc_dlbw : (th.setPc w).dlbw = th.dlbw := rfl
@[simp] theorem Thread.setPc_dlaDue : (th.setPc w).dlaDue = th.dlaDue := rfl
@[simp] theorem Thread.setPc_dlbDue : (th.setPc w).dlbDue = th.dlbDue := rfl
@[simp] theorem Thread.setPc_dlaCap : (th.setPc w).dlaCap = th.dlaCap := rfl
@[simp] theorem Thread.setPc_dlbCap : (th.setPc w).dlbCap = th.dlbCap := rfl
@[simp] theorem Thread.setPc_tallyBy : (th.setPc w).tallyBy = th.tallyBy := rfl
@[simp] theorem Thread.setPc_regBy : (th.setPc w).regBy = th.regBy := rfl
@[simp] theorem Thread.setPc_tidBad : (th.setPc w).tidBad = th.tidBad := rfl
@[simp] theorem Thread.setPc_dlbBound : (th.setPc w).dlbBound = th.dlbBound := rfl
@[simp] theorem Thread.setPc_lfill : (th.setPc w).lfill = th.lfill := rfl
@[simp] theorem Thread.setPc_sfill : (th.setPc w).sfill = th.sfill := rfl
@[simp] theorem Thread.setPc_shapes : (th.setPc w).shapes = th.shapes := rfl
@[simp] theorem Thread.setPc_pshapes : (th.setPc w).pshapes = th.pshapes := rfl
@[simp] theorem Thread.setPc_park : (th.setPc w).park = th.park := rfl
@[simp] theorem Thread.setPc_waiting : (th.setPc w).waiting = th.waiting := rfl
@[simp] theorem Thread.setPc_again : (th.setPc w).again = th.again := rfl
@[simp] theorem Thread.setPc_inPlace : (th.setPc w).inPlace = th.inPlace := rfl
@[simp] theorem Thread.setPc_desc : (th.setPc w).desc = th.desc := rfl
@[simp] theorem Thread.setPc_ops : (th.setPc w).ops = th.ops := rfl
@[simp] theorem Thread.setPc_held : (th.setPc w).held = th.held := rfl
@[simp] theorem Thread.setPc_rep : (th.setPc w).rep = th.rep := rfl
@[simp] theorem Thread.setPc_sync : (th.setPc w).sync = th.sync := rfl
@[simp] theorem Thread.setPc_compl : (th.setPc w).compl = th.compl := rfl
@[simp] theorem Thread.setPc_complMore : (th.setPc w).complMore = th.complMore := rfl
@[simp] theorem Thread.setPc_late : (th.setPc w).late = th.late := rfl
@[simp] theorem Thread.setPc_lateMore : (th.setPc w).lateMore = th.lateMore := rfl
@[simp] theorem Thread.setPc_deadlines : (th.setPc w).deadlines = th.deadlines := rfl
@[simp] theorem Thread.setPc_still : (th.setPc w).still = th.still := rfl
@[simp] theorem Thread.setPc_tvoid : (th.setPc w).tvoid = th.tvoid := rfl
@[simp] theorem Thread.setPc_haltReq : (th.setPc w).haltReq = th.haltReq := rfl
@[simp] theorem Thread.setPc_stepping : (th.setPc w).stepping = th.stepping := rfl
@[simp] theorem Thread.setPc_skipBreak : (th.setPc w).skipBreak = th.skipBreak := rfl
@[simp] theorem Thread.setPc_skipWatch : (th.setPc w).skipWatch = th.skipWatch := rfl
@[simp] theorem Thread.setPc_framePsw : (th.setPc w).framePsw = th.framePsw := rfl
@[simp] theorem Thread.setPc_commitHold : (th.setPc w).commitHold = th.commitHold := rfl
@[simp] theorem Thread.setPc_service : (th.setPc w).service = th.service := rfl
@[simp] theorem Thread.setPc_notifyAge : (th.setPc w).notifyAge = th.notifyAge := rfl
@[simp] theorem Thread.setPc_lastgasp : (th.setPc w).lastgasp = th.lastgasp := rfl

@[simp] theorem Thread.setDla_pc : (th.setDla v).pc = th.pc := rfl
@[simp] theorem Thread.setDla_dlb : (th.setDla v).dlb = th.dlb := rfl
@[simp] theorem Thread.setDla_psw : (th.setDla v).psw = th.psw := rfl
@[simp] theorem Thread.setDla_mask : (th.setDla v).mask = th.mask := rfl
@[simp] theorem Thread.setDla_sup : (th.setDla v).sup = th.sup := rfl
@[simp] theorem Thread.setDla_esc : (th.setDla v).esc = th.esc := rfl
@[simp] theorem Thread.setDla_precise : (th.setDla v).precise = th.precise := rfl
@[simp] theorem Thread.setDla_wp : (th.setDla v).wp = th.wp := rfl
@[simp] theorem Thread.setDla_wt : (th.setDla v).wt = th.wt := rfl
@[simp] theorem Thread.setDla_world : (th.setDla v).world = th.world := rfl
@[simp] theorem Thread.setDla_mres : (th.setDla v).mres = th.mres := rfl
@[simp] theorem Thread.setDla_owes : (th.setDla v).owes = th.owes := rfl
@[simp] theorem Thread.setDla_takesItems : (th.setDla v).takesItems = th.takesItems := rfl
@[simp] theorem Thread.setDla_regP : (th.setDla v).regP k = th.regP k := rfl
@[simp] theorem Thread.setDla_ctlP : (th.setDla v).ctlP k = th.ctlP k := rfl
@[simp] theorem Thread.setDla_ctlW : (th.setDla v).ctlW k = th.ctlW k := rfl
@[simp] theorem Thread.setDla_st : (th.setDla v).st = th.st := rfl
@[simp] theorem Thread.setDla_pcw : (th.setDla v).pcw = th.pcw := rfl
@[simp] theorem Thread.setDla_slotNo : (th.setDla v).slotNo = th.slotNo := rfl
@[simp] theorem Thread.setDla_regs : (th.setDla v).regs = th.regs := rfl
@[simp] theorem Thread.setDla_ctl : (th.setDla v).ctl = th.ctl := rfl
@[simp] theorem Thread.setDla_act : (th.setDla v).act = th.act := rfl
@[simp] theorem Thread.setDla_dlbw : (th.setDla v).dlbw = th.dlbw := rfl
@[simp] theorem Thread.setDla_dlaDue : (th.setDla v).dlaDue = th.dlaDue := rfl
@[simp] theorem Thread.setDla_dlbDue : (th.setDla v).dlbDue = th.dlbDue := rfl
@[simp] theorem Thread.setDla_dlaCap : (th.setDla v).dlaCap = th.dlaCap := rfl
@[simp] theorem Thread.setDla_dlbCap : (th.setDla v).dlbCap = th.dlbCap := rfl
@[simp] theorem Thread.setDla_tallyBy : (th.setDla v).tallyBy = th.tallyBy := rfl
@[simp] theorem Thread.setDla_regBy : (th.setDla v).regBy = th.regBy := rfl
@[simp] theorem Thread.setDla_tidBad : (th.setDla v).tidBad = th.tidBad := rfl
@[simp] theorem Thread.setDla_dlbBound : (th.setDla v).dlbBound = th.dlbBound := rfl
@[simp] theorem Thread.setDla_lfill : (th.setDla v).lfill = th.lfill := rfl
@[simp] theorem Thread.setDla_sfill : (th.setDla v).sfill = th.sfill := rfl
@[simp] theorem Thread.setDla_shapes : (th.setDla v).shapes = th.shapes := rfl
@[simp] theorem Thread.setDla_pshapes : (th.setDla v).pshapes = th.pshapes := rfl
@[simp] theorem Thread.setDla_park : (th.setDla v).park = th.park := rfl
@[simp] theorem Thread.setDla_waiting : (th.setDla v).waiting = th.waiting := rfl
@[simp] theorem Thread.setDla_again : (th.setDla v).again = th.again := rfl
@[simp] theorem Thread.setDla_inPlace : (th.setDla v).inPlace = th.inPlace := rfl
@[simp] theorem Thread.setDla_desc : (th.setDla v).desc = th.desc := rfl
@[simp] theorem Thread.setDla_ops : (th.setDla v).ops = th.ops := rfl
@[simp] theorem Thread.setDla_held : (th.setDla v).held = th.held := rfl
@[simp] theorem Thread.setDla_rep : (th.setDla v).rep = th.rep := rfl
@[simp] theorem Thread.setDla_sync : (th.setDla v).sync = th.sync := rfl
@[simp] theorem Thread.setDla_compl : (th.setDla v).compl = th.compl := rfl
@[simp] theorem Thread.setDla_complMore : (th.setDla v).complMore = th.complMore := rfl
@[simp] theorem Thread.setDla_late : (th.setDla v).late = th.late := rfl
@[simp] theorem Thread.setDla_lateMore : (th.setDla v).lateMore = th.lateMore := rfl
@[simp] theorem Thread.setDla_deadlines : (th.setDla v).deadlines = th.deadlines := rfl
@[simp] theorem Thread.setDla_still : (th.setDla v).still = th.still := rfl
@[simp] theorem Thread.setDla_tvoid : (th.setDla v).tvoid = th.tvoid := rfl
@[simp] theorem Thread.setDla_haltReq : (th.setDla v).haltReq = th.haltReq := rfl
@[simp] theorem Thread.setDla_stepping : (th.setDla v).stepping = th.stepping := rfl
@[simp] theorem Thread.setDla_skipBreak : (th.setDla v).skipBreak = th.skipBreak := rfl
@[simp] theorem Thread.setDla_skipWatch : (th.setDla v).skipWatch = th.skipWatch := rfl
@[simp] theorem Thread.setDla_framePsw : (th.setDla v).framePsw = th.framePsw := rfl
@[simp] theorem Thread.setDla_commitHold : (th.setDla v).commitHold = th.commitHold := rfl
@[simp] theorem Thread.setDla_service : (th.setDla v).service = th.service := rfl
@[simp] theorem Thread.setDla_notifyAge : (th.setDla v).notifyAge = th.notifyAge := rfl
@[simp] theorem Thread.setDla_lastgasp : (th.setDla v).lastgasp = th.lastgasp := rfl

@[simp] theorem Thread.setDlb_pc : (th.setDlb v).pc = th.pc := rfl
@[simp] theorem Thread.setDlb_dla : (th.setDlb v).dla = th.dla := rfl
@[simp] theorem Thread.setDlb_psw : (th.setDlb v).psw = th.psw := rfl
@[simp] theorem Thread.setDlb_mask : (th.setDlb v).mask = th.mask := rfl
@[simp] theorem Thread.setDlb_sup : (th.setDlb v).sup = th.sup := rfl
@[simp] theorem Thread.setDlb_esc : (th.setDlb v).esc = th.esc := rfl
@[simp] theorem Thread.setDlb_precise : (th.setDlb v).precise = th.precise := rfl
@[simp] theorem Thread.setDlb_wp : (th.setDlb v).wp = th.wp := rfl
@[simp] theorem Thread.setDlb_wt : (th.setDlb v).wt = th.wt := rfl
@[simp] theorem Thread.setDlb_world : (th.setDlb v).world = th.world := rfl
@[simp] theorem Thread.setDlb_mres : (th.setDlb v).mres = th.mres := rfl
@[simp] theorem Thread.setDlb_owes : (th.setDlb v).owes = th.owes := rfl
@[simp] theorem Thread.setDlb_takesItems : (th.setDlb v).takesItems = th.takesItems := rfl
@[simp] theorem Thread.setDlb_regP : (th.setDlb v).regP k = th.regP k := rfl
@[simp] theorem Thread.setDlb_ctlP : (th.setDlb v).ctlP k = th.ctlP k := rfl
@[simp] theorem Thread.setDlb_ctlW : (th.setDlb v).ctlW k = th.ctlW k := rfl
@[simp] theorem Thread.setDlb_st : (th.setDlb v).st = th.st := rfl
@[simp] theorem Thread.setDlb_pcw : (th.setDlb v).pcw = th.pcw := rfl
@[simp] theorem Thread.setDlb_slotNo : (th.setDlb v).slotNo = th.slotNo := rfl
@[simp] theorem Thread.setDlb_regs : (th.setDlb v).regs = th.regs := rfl
@[simp] theorem Thread.setDlb_ctl : (th.setDlb v).ctl = th.ctl := rfl
@[simp] theorem Thread.setDlb_act : (th.setDlb v).act = th.act := rfl
@[simp] theorem Thread.setDlb_dlaw : (th.setDlb v).dlaw = th.dlaw := rfl
@[simp] theorem Thread.setDlb_dlaDue : (th.setDlb v).dlaDue = th.dlaDue := rfl
@[simp] theorem Thread.setDlb_dlbDue : (th.setDlb v).dlbDue = th.dlbDue := rfl
@[simp] theorem Thread.setDlb_dlaCap : (th.setDlb v).dlaCap = th.dlaCap := rfl
@[simp] theorem Thread.setDlb_dlbCap : (th.setDlb v).dlbCap = th.dlbCap := rfl
@[simp] theorem Thread.setDlb_tallyBy : (th.setDlb v).tallyBy = th.tallyBy := rfl
@[simp] theorem Thread.setDlb_regBy : (th.setDlb v).regBy = th.regBy := rfl
@[simp] theorem Thread.setDlb_tidBad : (th.setDlb v).tidBad = th.tidBad := rfl
@[simp] theorem Thread.setDlb_dlbBound : (th.setDlb v).dlbBound = th.dlbBound := rfl
@[simp] theorem Thread.setDlb_lfill : (th.setDlb v).lfill = th.lfill := rfl
@[simp] theorem Thread.setDlb_sfill : (th.setDlb v).sfill = th.sfill := rfl
@[simp] theorem Thread.setDlb_shapes : (th.setDlb v).shapes = th.shapes := rfl
@[simp] theorem Thread.setDlb_pshapes : (th.setDlb v).pshapes = th.pshapes := rfl
@[simp] theorem Thread.setDlb_park : (th.setDlb v).park = th.park := rfl
@[simp] theorem Thread.setDlb_waiting : (th.setDlb v).waiting = th.waiting := rfl
@[simp] theorem Thread.setDlb_again : (th.setDlb v).again = th.again := rfl
@[simp] theorem Thread.setDlb_inPlace : (th.setDlb v).inPlace = th.inPlace := rfl
@[simp] theorem Thread.setDlb_desc : (th.setDlb v).desc = th.desc := rfl
@[simp] theorem Thread.setDlb_ops : (th.setDlb v).ops = th.ops := rfl
@[simp] theorem Thread.setDlb_held : (th.setDlb v).held = th.held := rfl
@[simp] theorem Thread.setDlb_rep : (th.setDlb v).rep = th.rep := rfl
@[simp] theorem Thread.setDlb_sync : (th.setDlb v).sync = th.sync := rfl
@[simp] theorem Thread.setDlb_compl : (th.setDlb v).compl = th.compl := rfl
@[simp] theorem Thread.setDlb_complMore : (th.setDlb v).complMore = th.complMore := rfl
@[simp] theorem Thread.setDlb_late : (th.setDlb v).late = th.late := rfl
@[simp] theorem Thread.setDlb_lateMore : (th.setDlb v).lateMore = th.lateMore := rfl
@[simp] theorem Thread.setDlb_deadlines : (th.setDlb v).deadlines = th.deadlines := rfl
@[simp] theorem Thread.setDlb_still : (th.setDlb v).still = th.still := rfl
@[simp] theorem Thread.setDlb_tvoid : (th.setDlb v).tvoid = th.tvoid := rfl
@[simp] theorem Thread.setDlb_haltReq : (th.setDlb v).haltReq = th.haltReq := rfl
@[simp] theorem Thread.setDlb_stepping : (th.setDlb v).stepping = th.stepping := rfl
@[simp] theorem Thread.setDlb_skipBreak : (th.setDlb v).skipBreak = th.skipBreak := rfl
@[simp] theorem Thread.setDlb_skipWatch : (th.setDlb v).skipWatch = th.skipWatch := rfl
@[simp] theorem Thread.setDlb_framePsw : (th.setDlb v).framePsw = th.framePsw := rfl
@[simp] theorem Thread.setDlb_commitHold : (th.setDlb v).commitHold = th.commitHold := rfl
@[simp] theorem Thread.setDlb_service : (th.setDlb v).service = th.service := rfl
@[simp] theorem Thread.setDlb_notifyAge : (th.setDlb v).notifyAge = th.notifyAge := rfl
@[simp] theorem Thread.setDlb_lastgasp : (th.setDlb v).lastgasp = th.lastgasp := rfl

@[simp] theorem Thread.slots_pc : (th.slots n).pc = th.pc := rfl
@[simp] theorem Thread.slots_dla : (th.slots n).dla = th.dla := rfl
@[simp] theorem Thread.slots_dlb : (th.slots n).dlb = th.dlb := rfl
@[simp] theorem Thread.slots_psw : (th.slots n).psw = th.psw := rfl
@[simp] theorem Thread.slots_mask : (th.slots n).mask = th.mask := rfl
@[simp] theorem Thread.slots_sup : (th.slots n).sup = th.sup := rfl
@[simp] theorem Thread.slots_esc : (th.slots n).esc = th.esc := rfl
@[simp] theorem Thread.slots_precise : (th.slots n).precise = th.precise := rfl
@[simp] theorem Thread.slots_wp : (th.slots n).wp = th.wp := rfl
@[simp] theorem Thread.slots_wt : (th.slots n).wt = th.wt := rfl
@[simp] theorem Thread.slots_world : (th.slots n).world = th.world := rfl
@[simp] theorem Thread.slots_mres : (th.slots n).mres = th.mres := rfl
@[simp] theorem Thread.slots_takesItems : (th.slots n).takesItems = th.takesItems := rfl
@[simp] theorem Thread.slots_regP : (th.slots n).regP k = th.regP k := rfl
@[simp] theorem Thread.slots_ctlP : (th.slots n).ctlP k = th.ctlP k := rfl
@[simp] theorem Thread.slots_ctlW : (th.slots n).ctlW k = th.ctlW k := rfl
@[simp] theorem Thread.slots_st : (th.slots n).st = th.st := rfl
@[simp] theorem Thread.slots_pcw : (th.slots n).pcw = th.pcw := rfl
@[simp] theorem Thread.slots_regs : (th.slots n).regs = th.regs := rfl
@[simp] theorem Thread.slots_ctl : (th.slots n).ctl = th.ctl := rfl
@[simp] theorem Thread.slots_act : (th.slots n).act = th.act := rfl
@[simp] theorem Thread.slots_dlaw : (th.slots n).dlaw = th.dlaw := rfl
@[simp] theorem Thread.slots_dlbw : (th.slots n).dlbw = th.dlbw := rfl
@[simp] theorem Thread.slots_dlaDue : (th.slots n).dlaDue = th.dlaDue := rfl
@[simp] theorem Thread.slots_dlbDue : (th.slots n).dlbDue = th.dlbDue := rfl
@[simp] theorem Thread.slots_dlaCap : (th.slots n).dlaCap = th.dlaCap := rfl
@[simp] theorem Thread.slots_dlbCap : (th.slots n).dlbCap = th.dlbCap := rfl
@[simp] theorem Thread.slots_tallyBy : (th.slots n).tallyBy = th.tallyBy := rfl
@[simp] theorem Thread.slots_regBy : (th.slots n).regBy = th.regBy := rfl
@[simp] theorem Thread.slots_tidBad : (th.slots n).tidBad = th.tidBad := rfl
@[simp] theorem Thread.slots_dlbBound : (th.slots n).dlbBound = th.dlbBound := rfl
@[simp] theorem Thread.slots_lfill : (th.slots n).lfill = th.lfill := rfl
@[simp] theorem Thread.slots_sfill : (th.slots n).sfill = th.sfill := rfl
@[simp] theorem Thread.slots_shapes : (th.slots n).shapes = th.shapes := rfl
@[simp] theorem Thread.slots_pshapes : (th.slots n).pshapes = th.pshapes := rfl
@[simp] theorem Thread.slots_park : (th.slots n).park = th.park := rfl
@[simp] theorem Thread.slots_waiting : (th.slots n).waiting = th.waiting := rfl
@[simp] theorem Thread.slots_again : (th.slots n).again = th.again := rfl
@[simp] theorem Thread.slots_inPlace : (th.slots n).inPlace = th.inPlace := rfl
@[simp] theorem Thread.slots_desc : (th.slots n).desc = th.desc := rfl
@[simp] theorem Thread.slots_ops : (th.slots n).ops = th.ops := rfl
@[simp] theorem Thread.slots_held : (th.slots n).held = th.held := rfl
@[simp] theorem Thread.slots_rep : (th.slots n).rep = th.rep := rfl
@[simp] theorem Thread.slots_sync : (th.slots n).sync = th.sync := rfl
@[simp] theorem Thread.slots_compl : (th.slots n).compl = th.compl := rfl
@[simp] theorem Thread.slots_complMore : (th.slots n).complMore = th.complMore := rfl
@[simp] theorem Thread.slots_late : (th.slots n).late = th.late := rfl
@[simp] theorem Thread.slots_lateMore : (th.slots n).lateMore = th.lateMore := rfl
@[simp] theorem Thread.slots_deadlines : (th.slots n).deadlines = th.deadlines := rfl
@[simp] theorem Thread.slots_still : (th.slots n).still = th.still := rfl
@[simp] theorem Thread.slots_tvoid : (th.slots n).tvoid = th.tvoid := rfl
@[simp] theorem Thread.slots_haltReq : (th.slots n).haltReq = th.haltReq := rfl
@[simp] theorem Thread.slots_stepping : (th.slots n).stepping = th.stepping := rfl
@[simp] theorem Thread.slots_skipBreak : (th.slots n).skipBreak = th.skipBreak := rfl
@[simp] theorem Thread.slots_skipWatch : (th.slots n).skipWatch = th.skipWatch := rfl
@[simp] theorem Thread.slots_framePsw : (th.slots n).framePsw = th.framePsw := rfl
@[simp] theorem Thread.slots_commitHold : (th.slots n).commitHold = th.commitHold := rfl
@[simp] theorem Thread.slots_service : (th.slots n).service = th.service := rfl
@[simp] theorem Thread.slots_notifyAge : (th.slots n).notifyAge = th.notifyAge := rfl
@[simp] theorem Thread.slots_lastgasp : (th.slots n).lastgasp = th.lastgasp := rfl

@[simp] theorem Thread.setPc_pc : (th.setPc w).pc = w := rfl

end

/-! ## Units after a write of a unit -/

@[simp] theorem State.thr_setThr (s : State) (t : Nat) (th : Thread) : (s.setThr t th).thr t = th := by simp [State.thr, State.setThr]

theorem State.thr_setThr_other (s : State) (t u : Nat) (th : Thread) (h : u ≠ t) : (s.setThr t th).thr u = s.thr u := by
  simp [State.thr, State.setThr, Tab.get_put_other _ _ _ _ _ h]

@[simp] theorem State.thr_modThr (s : State) (t : Nat) (f : Thread → Thread) : (s.modThr t f).thr t = f (s.thr t) := by
  simp [State.modThr]

theorem State.thr_modThr_other (s : State) (t u : Nat) (f : Thread → Thread) (h : u ≠ t) : (s.modThr t f).thr u = s.thr u :=
  State.thr_setThr_other s t u _ h

/-- Two changes of one thread are one. -/
@[simp] theorem State.modThr_modThr (s : State) (t : Nat) (f g : Thread → Thread) :
    (s.modThr t f).modThr t g = s.modThr t (fun th => g (f th)) := by
  simp [State.modThr, State.setThr, State.thr]

theorem State.setThr_setThr (s : State) (t : Nat) (x y : Thread) : (s.setThr t x).setThr t y = s.setThr t y := by
  simp [State.setThr]

/-- Changes of one thread that agree on it agree. -/
theorem State.modThr_congr (s : State) (t : Nat) (f g : Thread → Thread) (h : f (s.thr t) = g (s.thr t)) :
    s.modThr t f = s.modThr t g := by
  simp [State.modThr, h]

@[simp] theorem State.arr_setArr (s : State) (a : Nat) (x : Arr) : (s.setArr a x).arr a = x := by simp [State.arr, State.setArr]

theorem State.arr_setArr_other (s : State) (a b : Nat) (x : Arr) (h : b ≠ a) : (s.setArr a x).arr b = s.arr b := by
  simp [State.arr, State.setArr, Tab.get_put_other _ _ _ _ _ h]

@[simp] theorem State.arr_modArr (s : State) (a : Nat) (f : Arr → Arr) : (s.modArr a f).arr a = f (s.arr a) := by
  simp [State.modArr]

theorem State.arr_modArr_other (s : State) (a b : Nat) (f : Arr → Arr) (h : b ≠ a) : (s.modArr a f).arr b = s.arr b :=
  State.arr_setArr_other s a b _ h

@[simp] theorem State.fend_setEnd (s : State) (e : Nat) (x : FEnd) : (s.setEnd e x).fend e = x := by simp [State.fend, State.setEnd]

theorem State.fend_setEnd_other (s : State) (e f : Nat) (x : FEnd) (h : f ≠ e) : (s.setEnd e x).fend f = s.fend f := by
  simp [State.fend, State.setEnd, Tab.get_put_other _ _ _ _ _ h]

@[simp] theorem State.fend_modEnd (s : State) (e : Nat) (f : FEnd → FEnd) : (s.modEnd e f).fend e = f (s.fend e) := by
  simp [State.modEnd]

theorem State.fend_modEnd_other (s : State) (e k : Nat) (f : FEnd → FEnd) (h : k ≠ e) : (s.modEnd e f).fend k = s.fend k :=
  State.fend_setEnd_other s e k _ h

@[simp] theorem State.lane_setLane (s : State) (n : Nat) (x : Lane) : (s.setLane n x).lane n = x := by simp [State.lane, State.setLane]

theorem State.lane_setLane_other (s : State) (n m : Nat) (x : Lane) (h : m ≠ n) : (s.setLane n x).lane m = s.lane m := by
  simp [State.lane, State.setLane, Tab.get_put_other _ _ _ _ _ h]

@[simp] theorem State.lane_modLane (s : State) (n : Nat) (f : Lane → Lane) : (s.modLane n f).lane n = f (s.lane n) := by
  simp [State.modLane]

@[simp] theorem State.engQ_setEng (s : State) (x : Nat) (q : List TileOp) : (s.setEng x q).engQ x = q := by simp [State.engQ, State.setEng]

theorem State.engQ_setEng_other (s : State) (x y : Nat) (q : List TileOp) (h : y ≠ x) : (s.setEng x q).engQ y = s.engQ y := by
  simp [State.engQ, State.setEng, Tab.get_put_other _ _ _ _ _ h]

/-! ## Words after a write of a word -/

/-- Local memory after one write (R135, R136). -/
theorem State.mget_mset (s : State) (a b : Nat) (w : Word) :
    (s.mset a w).mget b = if b % 65536 = a % 65536 then pw w else s.mget b := by
  simp [State.mget, State.mset, Tab.get_set]

/-- A tile word after one write (R216). -/
theorem State.tget_tset (s : State) (p i q j : Nat) (w : Word) :
    (s.tset p i w).tget q j = if 512 * q + j % 512 = 512 * p + i % 512 then pw w else s.tget q j := by
  simp [State.tget, State.tset, Tab.get_set]

theorem State.poisoned_setPoison (s : State) (p q : Nat) (b : Bool) :
    (s.setPoison p b).poisoned q = if q = p then b else s.poisoned q := by
  simp [State.poisoned, State.setPoison, Tab.get_set]

/-- A general register after one write. -/
theorem Thread.regP_setRegN (th : Thread) (n m : Nat) (w : Word) :
    (th.setRegN n w).regP m = if m = n then pw w else th.regP m := by
  simp [Thread.regP, Thread.setRegN, Tab.get_set]

/-- A control word after one write. -/
theorem Thread.ctlP_setCtl (th : Thread) (i j : Nat) (w : Word) :
    (th.setCtl i w).ctlP j = if j = i then pw w else th.ctlP j := by
  simp [Thread.ctlP, Thread.setCtl, Tab.get_set]

@[simp] theorem pw_d (w : Word) : (pw w).d = w := rfl

/-- A word as written passes the parity check (R136). -/
@[simp] theorem parOk_pw (w : Word) : parOk (pw w) = true := by simp [parOk, pw]

/-- A counter after an increment (R482). -/
theorem State.tally_count (s : State) (i n j : Nat) :
    Tab.get 0 (s.count i n).tally j = if j = i then satAdd (Tab.get 0 s.tally i) n else Tab.get 0 s.tally j := by
  simp [State.count, Tab.get_set]

/-! ## Lists of words -/

/-- A list of words written from `a` leaves every other address alone. -/
theorem State.mget_msetList (ws : List Word) : ∀ (s : State) (a b : Nat),
    (∀ k < ws.length, b % 65536 ≠ (a + k) % 65536) → (s.msetList a ws).mget b = s.mget b := by
  induction ws with
  | nil => intro s a b _; rfl
  | cons w ws ih =>
    intro s a b h
    have h0 := h 0 (by simp)
    rw [State.msetList, ih _ _ _ (fun k hk => by have := h (k + 1) (by simpa using hk); simpa [Nat.add_assoc, Nat.add_comm 1] using this),
      State.mget_mset]
    simp only [Nat.add_zero] at h0
    simp [h0]

/-- A list of at most 65 536 words written from `a` reads back. -/
theorem State.mget_msetList_at (ws : List Word) : ∀ (s : State) (a k : Nat), ws.length ≤ 65536 → (hk : k < ws.length) →
    (s.msetList a ws).mget (a + k) = pw ws[k] := by
  induction ws with
  | nil => intro s a k _ hk; simp at hk
  | cons w ws ih =>
    intro s a k hl hk
    simp only [List.length_cons] at hl hk
    cases k with
    | zero =>
      rw [State.msetList, State.mget_msetList ws _ _ _ (fun k hk => by omega), State.mget_mset]
      simp
    | succ k =>
      have := ih (s.mset a w) (a + 1) k (by omega) (by omega)
      simpa [State.msetList, Nat.add_assoc, Nat.add_comm 1] using this

@[simp] theorem State.msetList_pending (s : State) (a : Nat) (ws : List Word) : (s.msetList a ws).pending = s.pending := by
  induction ws generalizing s a with
  | nil => rfl
  | cons w ws ih => simp [State.msetList, ih]
@[simp] theorem State.msetList_pins (s : State) (a : Nat) (ws : List Word) : (s.msetList a ws).pins = s.pins := by
  induction ws generalizing s a with
  | nil => rfl
  | cons w ws ih => simp [State.msetList, ih]
@[simp] theorem State.msetList_ident (s : State) (a : Nat) (ws : List Word) : (s.msetList a ws).ident = s.ident := by
  induction ws generalizing s a with
  | nil => rfl
  | cons w ws ih => simp [State.msetList, ih]
@[simp] theorem State.msetList_trim (s : State) (a : Nat) (ws : List Word) : (s.msetList a ws).trim = s.trim := by
  induction ws generalizing s a with
  | nil => rfl
  | cons w ws ih => simp [State.msetList, ih]
@[simp] theorem State.msetList_trimUser (s : State) (a : Nat) (ws : List Word) : (s.msetList a ws).trimUser = s.trimUser := by
  induction ws generalizing s a with
  | nil => rfl
  | cons w ws ih => simp [State.msetList, ih]
@[simp] theorem State.msetList_trimSo (s : State) (a : Nat) (ws : List Word) : (s.msetList a ws).trimSo = s.trimSo := by
  induction ws generalizing s a with
  | nil => rfl
  | cons w ws ih => simp [State.msetList, ih]
@[simp] theorem State.msetList_core (s : State) (a : Nat) (ws : List Word) : (s.msetList a ws).core = s.core := by
  induction ws generalizing s a with
  | nil => rfl
  | cons w ws ih => simp [State.msetList, ih]
@[simp] theorem State.msetList_faultCause (s : State) (a : Nat) (ws : List Word) : (s.msetList a ws).faultCause = s.faultCause := by
  induction ws generalizing s a with
  | nil => rfl
  | cons w ws ih => simp [State.msetList, ih]
@[simp] theorem State.msetList_ready (s : State) (a : Nat) (ws : List Word) : (s.msetList a ws).ready = s.ready := by
  induction ws generalizing s a with
  | nil => rfl
  | cons w ws ih => simp [State.msetList, ih]
@[simp] theorem State.msetList_readySent (s : State) (a : Nat) (ws : List Word) : (s.msetList a ws).readySent = s.readySent := by
  induction ws generalizing s a with
  | nil => rfl
  | cons w ws ih => simp [State.msetList, ih]
@[simp] theorem State.msetList_readyMark (s : State) (a : Nat) (ws : List Word) : (s.msetList a ws).readyMark = s.readyMark := by
  induction ws generalizing s a with
  | nil => rfl
  | cons w ws ih => simp [State.msetList, ih]
@[simp] theorem State.msetList_cycle (s : State) (a : Nat) (ws : List Word) : (s.msetList a ws).cycle = s.cycle := by
  induction ws generalizing s a with
  | nil => rfl
  | cons w ws ih => simp [State.msetList, ih]
@[simp] theorem State.msetList_mclk (s : State) (a : Nat) (ws : List Word) : (s.msetList a ws).mclk = s.mclk := by
  induction ws generalizing s a with
  | nil => rfl
  | cons w ws ih => simp [State.msetList, ih]
@[simp] theorem State.msetList_mclkFrac (s : State) (a : Nat) (ws : List Word) : (s.msetList a ws).mclkFrac = s.mclkFrac := by
  induction ws generalizing s a with
  | nil => rfl
  | cons w ws ih => simp [State.msetList, ih]
@[simp] theorem State.msetList_slotCtr (s : State) (a : Nat) (ws : List Word) : (s.msetList a ws).slotCtr = s.slotCtr := by
  induction ws generalizing s a with
  | nil => rfl
  | cons w ws ih => simp [State.msetList, ih]
@[simp] theorem State.msetList_stillCtr (s : State) (a : Nat) (ws : List Word) : (s.msetList a ws).stillCtr = s.stillCtr := by
  induction ws generalizing s a with
  | nil => rfl
  | cons w ws ih => simp [State.msetList, ih]
@[simp] theorem State.msetList_stillRaised (s : State) (a : Nat) (ws : List Word) : (s.msetList a ws).stillRaised = s.stillRaised := by
  induction ws generalizing s a with
  | nil => rfl
  | cons w ws ih => simp [State.msetList, ih]
@[simp] theorem State.msetList_warm (s : State) (a : Nat) (ws : List Word) : (s.msetList a ws).warm = s.warm := by
  induction ws generalizing s a with
  | nil => rfl
  | cons w ws ih => simp [State.msetList, ih]
@[simp] theorem State.msetList_warmDue (s : State) (a : Nat) (ws : List Word) : (s.msetList a ws).warmDue = s.warmDue := by
  induction ws generalizing s a with
  | nil => rfl
  | cons w ws ih => simp [State.msetList, ih]
@[simp] theorem State.msetList_longClear (s : State) (a : Nat) (ws : List Word) : (s.msetList a ws).longClear = s.longClear := by
  induction ws generalizing s a with
  | nil => rfl
  | cons w ws ih => simp [State.msetList, ih]
@[simp] theorem State.msetList_clk (s : State) (a : Nat) (ws : List Word) : (s.msetList a ws).clk = s.clk := by
  induction ws generalizing s a with
  | nil => rfl
  | cons w ws ih => simp [State.msetList, ih]
@[simp] theorem State.msetList_cfg (s : State) (a : Nat) (ws : List Word) : (s.msetList a ws).cfg = s.cfg := by
  induction ws generalizing s a with
  | nil => rfl
  | cons w ws ih => simp [State.msetList, ih]
@[simp] theorem State.msetList_image (s : State) (a : Nat) (ws : List Word) : (s.msetList a ws).image = s.image := by
  induction ws generalizing s a with
  | nil => rfl
  | cons w ws ih => simp [State.msetList, ih]
@[simp] theorem State.msetList_clkWritten (s : State) (a : Nat) (ws : List Word) : (s.msetList a ws).clkWritten = s.clkWritten := by
  induction ws generalizing s a with
  | nil => rfl
  | cons w ws ih => simp [State.msetList, ih]
@[simp] theorem State.msetList_decl (s : State) (a : Nat) (ws : List Word) : (s.msetList a ws).decl = s.decl := by
  induction ws generalizing s a with
  | nil => rfl
  | cons w ws ih => simp [State.msetList, ih]
@[simp] theorem State.msetList_declNew (s : State) (a : Nat) (ws : List Word) : (s.msetList a ws).declNew = s.declNew := by
  induction ws generalizing s a with
  | nil => rfl
  | cons w ws ih => simp [State.msetList, ih]
@[simp] theorem State.msetList_txn (s : State) (a : Nat) (ws : List Word) : (s.msetList a ws).txn = s.txn := by
  induction ws generalizing s a with
  | nil => rfl
  | cons w ws ih => simp [State.msetList, ih]
@[simp] theorem State.msetList_threads (s : State) (a : Nat) (ws : List Word) : (s.msetList a ws).threads = s.threads := by
  induction ws generalizing s a with
  | nil => rfl
  | cons w ws ih => simp [State.msetList, ih]
@[simp] theorem State.msetList_cruiseNext (s : State) (a : Nat) (ws : List Word) : (s.msetList a ws).cruiseNext = s.cruiseNext := by
  induction ws generalizing s a with
  | nil => rfl
  | cons w ws ih => simp [State.msetList, ih]
@[simp] theorem State.msetList_cruiseAge (s : State) (a : Nat) (ws : List Word) : (s.msetList a ws).cruiseAge = s.cruiseAge := by
  induction ws generalizing s a with
  | nil => rfl
  | cons w ws ih => simp [State.msetList, ih]
@[simp] theorem State.msetList_tally (s : State) (a : Nat) (ws : List Word) : (s.msetList a ws).tally = s.tally := by
  induction ws generalizing s a with
  | nil => rfl
  | cons w ws ih => simp [State.msetList, ih]
@[simp] theorem State.msetList_farOps (s : State) (a : Nat) (ws : List Word) : (s.msetList a ws).farOps = s.farOps := by
  induction ws generalizing s a with
  | nil => rfl
  | cons w ws ih => simp [State.msetList, ih]
@[simp] theorem State.msetList_tags (s : State) (a : Nat) (ws : List Word) : (s.msetList a ws).tags = s.tags := by
  induction ws generalizing s a with
  | nil => rfl
  | cons w ws ih => simp [State.msetList, ih]
@[simp] theorem State.msetList_ahead (s : State) (a : Nat) (ws : List Word) : (s.msetList a ws).ahead = s.ahead := by
  induction ws generalizing s a with
  | nil => rfl
  | cons w ws ih => simp [State.msetList, ih]
@[simp] theorem State.msetList_lines (s : State) (a : Nat) (ws : List Word) : (s.msetList a ws).lines = s.lines := by
  induction ws generalizing s a with
  | nil => rfl
  | cons w ws ih => simp [State.msetList, ih]
@[simp] theorem State.msetList_evict (s : State) (a : Nat) (ws : List Word) : (s.msetList a ws).evict = s.evict := by
  induction ws generalizing s a with
  | nil => rfl
  | cons w ws ih => simp [State.msetList, ih]
@[simp] theorem State.msetList_merge (s : State) (a : Nat) (ws : List Word) : (s.msetList a ws).merge = s.merge := by
  induction ws generalizing s a with
  | nil => rfl
  | cons w ws ih => simp [State.msetList, ih]
@[simp] theorem State.msetList_tiles (s : State) (a : Nat) (ws : List Word) : (s.msetList a ws).tiles = s.tiles := by
  induction ws generalizing s a with
  | nil => rfl
  | cons w ws ih => simp [State.msetList, ih]
@[simp] theorem State.msetList_poison (s : State) (a : Nat) (ws : List Word) : (s.msetList a ws).poison = s.poison := by
  induction ws generalizing s a with
  | nil => rfl
  | cons w ws ih => simp [State.msetList, ih]
@[simp] theorem State.msetList_eng (s : State) (a : Nat) (ws : List Word) : (s.msetList a ws).eng = s.eng := by
  induction ws generalizing s a with
  | nil => rfl
  | cons w ws ih => simp [State.msetList, ih]
@[simp] theorem State.msetList_arrs (s : State) (a : Nat) (ws : List Word) : (s.msetList a ws).arrs = s.arrs := by
  induction ws generalizing s a with
  | nil => rfl
  | cons w ws ih => simp [State.msetList, ih]
@[simp] theorem State.msetList_rowQ (s : State) (a : Nat) (ws : List Word) : (s.msetList a ws).rowQ = s.rowQ := by
  induction ws generalizing s a with
  | nil => rfl
  | cons w ws ih => simp [State.msetList, ih]
@[simp] theorem State.msetList_rowCur (s : State) (a : Nat) (ws : List Word) : (s.msetList a ws).rowCur = s.rowCur := by
  induction ws generalizing s a with
  | nil => rfl
  | cons w ws ih => simp [State.msetList, ih]
@[simp] theorem State.msetList_rowLast (s : State) (a : Nat) (ws : List Word) : (s.msetList a ws).rowLast = s.rowLast := by
  induction ws generalizing s a with
  | nil => rfl
  | cons w ws ih => simp [State.msetList, ih]
@[simp] theorem State.msetList_ends (s : State) (a : Nat) (ws : List Word) : (s.msetList a ws).ends = s.ends := by
  induction ws generalizing s a with
  | nil => rfl
  | cons w ws ih => simp [State.msetList, ih]
@[simp] theorem State.msetList_flumeOut (s : State) (a : Nat) (ws : List Word) : (s.msetList a ws).flumeOut = s.flumeOut := by
  induction ws generalizing s a with
  | nil => rfl
  | cons w ws ih => simp [State.msetList, ih]
@[simp] theorem State.msetList_loop (s : State) (a : Nat) (ws : List Word) : (s.msetList a ws).loop = s.loop := by
  induction ws generalizing s a with
  | nil => rfl
  | cons w ws ih => simp [State.msetList, ih]
@[simp] theorem State.msetList_ringWrites (s : State) (a : Nat) (ws : List Word) : (s.msetList a ws).ringWrites = s.ringWrites := by
  induction ws generalizing s a with
  | nil => rfl
  | cons w ws ih => simp [State.msetList, ih]
@[simp] theorem State.msetList_landWrites (s : State) (a : Nat) (ws : List Word) : (s.msetList a ws).landWrites = s.landWrites := by
  induction ws generalizing s a with
  | nil => rfl
  | cons w ws ih => simp [State.msetList, ih]
@[simp] theorem State.msetList_lanes (s : State) (a : Nat) (ws : List Word) : (s.msetList a ws).lanes = s.lanes := by
  induction ws generalizing s a with
  | nil => rfl
  | cons w ws ih => simp [State.msetList, ih]
@[simp] theorem State.msetList_movTags (s : State) (a : Nat) (ws : List Word) : (s.msetList a ws).movTags = s.movTags := by
  induction ws generalizing s a with
  | nil => rfl
  | cons w ws ih => simp [State.msetList, ih]
@[simp] theorem State.msetList_wardenQ (s : State) (a : Nat) (ws : List Word) : (s.msetList a ws).wardenQ = s.wardenQ := by
  induction ws generalizing s a with
  | nil => rfl
  | cons w ws ih => simp [State.msetList, ih]
@[simp] theorem State.msetList_notices (s : State) (a : Nat) (ws : List Word) : (s.msetList a ws).notices = s.notices := by
  induction ws generalizing s a with
  | nil => rfl
  | cons w ws ih => simp [State.msetList, ih]
@[simp] theorem State.msetList_noticeSeq (s : State) (a : Nat) (ws : List Word) : (s.msetList a ws).noticeSeq = s.noticeSeq := by
  induction ws generalizing s a with
  | nil => rfl
  | cons w ws ih => simp [State.msetList, ih]
@[simp] theorem State.msetList_faultLog (s : State) (a : Nat) (ws : List Word) : (s.msetList a ws).faultLog = s.faultLog := by
  induction ws generalizing s a with
  | nil => rfl
  | cons w ws ih => simp [State.msetList, ih]
@[simp] theorem State.msetList_atpQ (s : State) (a : Nat) (ws : List Word) : (s.msetList a ws).atpQ = s.atpQ := by
  induction ws generalizing s a with
  | nil => rfl
  | cons w ws ih => simp [State.msetList, ih]
@[simp] theorem State.msetList_atpCur (s : State) (a : Nat) (ws : List Word) : (s.msetList a ws).atpCur = s.atpCur := by
  induction ws generalizing s a with
  | nil => rfl
  | cons w ws ih => simp [State.msetList, ih]
@[simp] theorem State.msetList_brks (s : State) (a : Nat) (ws : List Word) : (s.msetList a ws).brks = s.brks := by
  induction ws generalizing s a with
  | nil => rfl
  | cons w ws ih => simp [State.msetList, ih]
@[simp] theorem State.msetList_watches (s : State) (a : Nat) (ws : List Word) : (s.msetList a ws).watches = s.watches := by
  induction ws generalizing s a with
  | nil => rfl
  | cons w ws ih => simp [State.msetList, ih]
@[simp] theorem State.msetList_gpOut (s : State) (a : Nat) (ws : List Word) : (s.msetList a ws).gpOut = s.gpOut := by
  induction ws generalizing s a with
  | nil => rfl
  | cons w ws ih => simp [State.msetList, ih]
@[simp] theorem State.msetList_nextId (s : State) (a : Nat) (ws : List Word) : (s.msetList a ws).nextId = s.nextId := by
  induction ws generalizing s a with
  | nil => rfl
  | cons w ws ih => simp [State.msetList, ih]

@[simp] theorem Thread.setRegs_st (th : Thread) (l : List (Nat × Word)) : (th.setRegs l).st = th.st := by
  induction l generalizing th with
  | nil => rfl
  | cons e l ih => simp [Thread.setRegs, ih]
@[simp] theorem Thread.setRegs_pcw (th : Thread) (l : List (Nat × Word)) : (th.setRegs l).pcw = th.pcw := by
  induction l generalizing th with
  | nil => rfl
  | cons e l ih => simp [Thread.setRegs, ih]
@[simp] theorem Thread.setRegs_slotNo (th : Thread) (l : List (Nat × Word)) : (th.setRegs l).slotNo = th.slotNo := by
  induction l generalizing th with
  | nil => rfl
  | cons e l ih => simp [Thread.setRegs, ih]
@[simp] theorem Thread.setRegs_ctl (th : Thread) (l : List (Nat × Word)) : (th.setRegs l).ctl = th.ctl := by
  induction l generalizing th with
  | nil => rfl
  | cons e l ih => simp [Thread.setRegs, ih]
@[simp] theorem Thread.setRegs_act (th : Thread) (l : List (Nat × Word)) : (th.setRegs l).act = th.act := by
  induction l generalizing th with
  | nil => rfl
  | cons e l ih => simp [Thread.setRegs, ih]
@[simp] theorem Thread.setRegs_dlaw (th : Thread) (l : List (Nat × Word)) : (th.setRegs l).dlaw = th.dlaw := by
  induction l generalizing th with
  | nil => rfl
  | cons e l ih => simp [Thread.setRegs, ih]
@[simp] theorem Thread.setRegs_dlbw (th : Thread) (l : List (Nat × Word)) : (th.setRegs l).dlbw = th.dlbw := by
  induction l generalizing th with
  | nil => rfl
  | cons e l ih => simp [Thread.setRegs, ih]
@[simp] theorem Thread.setRegs_dlaDue (th : Thread) (l : List (Nat × Word)) : (th.setRegs l).dlaDue = th.dlaDue := by
  induction l generalizing th with
  | nil => rfl
  | cons e l ih => simp [Thread.setRegs, ih]
@[simp] theorem Thread.setRegs_dlbDue (th : Thread) (l : List (Nat × Word)) : (th.setRegs l).dlbDue = th.dlbDue := by
  induction l generalizing th with
  | nil => rfl
  | cons e l ih => simp [Thread.setRegs, ih]
@[simp] theorem Thread.setRegs_dlaCap (th : Thread) (l : List (Nat × Word)) : (th.setRegs l).dlaCap = th.dlaCap := by
  induction l generalizing th with
  | nil => rfl
  | cons e l ih => simp [Thread.setRegs, ih]
@[simp] theorem Thread.setRegs_dlbCap (th : Thread) (l : List (Nat × Word)) : (th.setRegs l).dlbCap = th.dlbCap := by
  induction l generalizing th with
  | nil => rfl
  | cons e l ih => simp [Thread.setRegs, ih]
@[simp] theorem Thread.setRegs_tallyBy (th : Thread) (l : List (Nat × Word)) : (th.setRegs l).tallyBy = th.tallyBy := by
  induction l generalizing th with
  | nil => rfl
  | cons e l ih => simp [Thread.setRegs, ih]
@[simp] theorem Thread.setRegs_regBy (th : Thread) (l : List (Nat × Word)) : (th.setRegs l).regBy = th.regBy := by
  induction l generalizing th with
  | nil => rfl
  | cons e l ih => simp [Thread.setRegs, ih]
@[simp] theorem Thread.setRegs_tidBad (th : Thread) (l : List (Nat × Word)) : (th.setRegs l).tidBad = th.tidBad := by
  induction l generalizing th with
  | nil => rfl
  | cons e l ih => simp [Thread.setRegs, ih]
@[simp] theorem Thread.setRegs_dlbBound (th : Thread) (l : List (Nat × Word)) : (th.setRegs l).dlbBound = th.dlbBound := by
  induction l generalizing th with
  | nil => rfl
  | cons e l ih => simp [Thread.setRegs, ih]
@[simp] theorem Thread.setRegs_lfill (th : Thread) (l : List (Nat × Word)) : (th.setRegs l).lfill = th.lfill := by
  induction l generalizing th with
  | nil => rfl
  | cons e l ih => simp [Thread.setRegs, ih]
@[simp] theorem Thread.setRegs_sfill (th : Thread) (l : List (Nat × Word)) : (th.setRegs l).sfill = th.sfill := by
  induction l generalizing th with
  | nil => rfl
  | cons e l ih => simp [Thread.setRegs, ih]
@[simp] theorem Thread.setRegs_shapes (th : Thread) (l : List (Nat × Word)) : (th.setRegs l).shapes = th.shapes := by
  induction l generalizing th with
  | nil => rfl
  | cons e l ih => simp [Thread.setRegs, ih]
@[simp] theorem Thread.setRegs_pshapes (th : Thread) (l : List (Nat × Word)) : (th.setRegs l).pshapes = th.pshapes := by
  induction l generalizing th with
  | nil => rfl
  | cons e l ih => simp [Thread.setRegs, ih]
@[simp] theorem Thread.setRegs_park (th : Thread) (l : List (Nat × Word)) : (th.setRegs l).park = th.park := by
  induction l generalizing th with
  | nil => rfl
  | cons e l ih => simp [Thread.setRegs, ih]
@[simp] theorem Thread.setRegs_waiting (th : Thread) (l : List (Nat × Word)) : (th.setRegs l).waiting = th.waiting := by
  induction l generalizing th with
  | nil => rfl
  | cons e l ih => simp [Thread.setRegs, ih]
@[simp] theorem Thread.setRegs_again (th : Thread) (l : List (Nat × Word)) : (th.setRegs l).again = th.again := by
  induction l generalizing th with
  | nil => rfl
  | cons e l ih => simp [Thread.setRegs, ih]
@[simp] theorem Thread.setRegs_inPlace (th : Thread) (l : List (Nat × Word)) : (th.setRegs l).inPlace = th.inPlace := by
  induction l generalizing th with
  | nil => rfl
  | cons e l ih => simp [Thread.setRegs, ih]
@[simp] theorem Thread.setRegs_desc (th : Thread) (l : List (Nat × Word)) : (th.setRegs l).desc = th.desc := by
  induction l generalizing th with
  | nil => rfl
  | cons e l ih => simp [Thread.setRegs, ih]
@[simp] theorem Thread.setRegs_ops (th : Thread) (l : List (Nat × Word)) : (th.setRegs l).ops = th.ops := by
  induction l generalizing th with
  | nil => rfl
  | cons e l ih => simp [Thread.setRegs, ih]
@[simp] theorem Thread.setRegs_held (th : Thread) (l : List (Nat × Word)) : (th.setRegs l).held = th.held := by
  induction l generalizing th with
  | nil => rfl
  | cons e l ih => simp [Thread.setRegs, ih]
@[simp] theorem Thread.setRegs_rep (th : Thread) (l : List (Nat × Word)) : (th.setRegs l).rep = th.rep := by
  induction l generalizing th with
  | nil => rfl
  | cons e l ih => simp [Thread.setRegs, ih]
@[simp] theorem Thread.setRegs_sync (th : Thread) (l : List (Nat × Word)) : (th.setRegs l).sync = th.sync := by
  induction l generalizing th with
  | nil => rfl
  | cons e l ih => simp [Thread.setRegs, ih]
@[simp] theorem Thread.setRegs_compl (th : Thread) (l : List (Nat × Word)) : (th.setRegs l).compl = th.compl := by
  induction l generalizing th with
  | nil => rfl
  | cons e l ih => simp [Thread.setRegs, ih]
@[simp] theorem Thread.setRegs_complMore (th : Thread) (l : List (Nat × Word)) : (th.setRegs l).complMore = th.complMore := by
  induction l generalizing th with
  | nil => rfl
  | cons e l ih => simp [Thread.setRegs, ih]
@[simp] theorem Thread.setRegs_late (th : Thread) (l : List (Nat × Word)) : (th.setRegs l).late = th.late := by
  induction l generalizing th with
  | nil => rfl
  | cons e l ih => simp [Thread.setRegs, ih]
@[simp] theorem Thread.setRegs_lateMore (th : Thread) (l : List (Nat × Word)) : (th.setRegs l).lateMore = th.lateMore := by
  induction l generalizing th with
  | nil => rfl
  | cons e l ih => simp [Thread.setRegs, ih]
@[simp] theorem Thread.setRegs_deadlines (th : Thread) (l : List (Nat × Word)) : (th.setRegs l).deadlines = th.deadlines := by
  induction l generalizing th with
  | nil => rfl
  | cons e l ih => simp [Thread.setRegs, ih]
@[simp] theorem Thread.setRegs_still (th : Thread) (l : List (Nat × Word)) : (th.setRegs l).still = th.still := by
  induction l generalizing th with
  | nil => rfl
  | cons e l ih => simp [Thread.setRegs, ih]
@[simp] theorem Thread.setRegs_tvoid (th : Thread) (l : List (Nat × Word)) : (th.setRegs l).tvoid = th.tvoid := by
  induction l generalizing th with
  | nil => rfl
  | cons e l ih => simp [Thread.setRegs, ih]
@[simp] theorem Thread.setRegs_haltReq (th : Thread) (l : List (Nat × Word)) : (th.setRegs l).haltReq = th.haltReq := by
  induction l generalizing th with
  | nil => rfl
  | cons e l ih => simp [Thread.setRegs, ih]
@[simp] theorem Thread.setRegs_stepping (th : Thread) (l : List (Nat × Word)) : (th.setRegs l).stepping = th.stepping := by
  induction l generalizing th with
  | nil => rfl
  | cons e l ih => simp [Thread.setRegs, ih]
@[simp] theorem Thread.setRegs_skipBreak (th : Thread) (l : List (Nat × Word)) : (th.setRegs l).skipBreak = th.skipBreak := by
  induction l generalizing th with
  | nil => rfl
  | cons e l ih => simp [Thread.setRegs, ih]
@[simp] theorem Thread.setRegs_skipWatch (th : Thread) (l : List (Nat × Word)) : (th.setRegs l).skipWatch = th.skipWatch := by
  induction l generalizing th with
  | nil => rfl
  | cons e l ih => simp [Thread.setRegs, ih]
@[simp] theorem Thread.setRegs_framePsw (th : Thread) (l : List (Nat × Word)) : (th.setRegs l).framePsw = th.framePsw := by
  induction l generalizing th with
  | nil => rfl
  | cons e l ih => simp [Thread.setRegs, ih]
@[simp] theorem Thread.setRegs_commitHold (th : Thread) (l : List (Nat × Word)) : (th.setRegs l).commitHold = th.commitHold := by
  induction l generalizing th with
  | nil => rfl
  | cons e l ih => simp [Thread.setRegs, ih]
@[simp] theorem Thread.setRegs_service (th : Thread) (l : List (Nat × Word)) : (th.setRegs l).service = th.service := by
  induction l generalizing th with
  | nil => rfl
  | cons e l ih => simp [Thread.setRegs, ih]
@[simp] theorem Thread.setRegs_notifyAge (th : Thread) (l : List (Nat × Word)) : (th.setRegs l).notifyAge = th.notifyAge := by
  induction l generalizing th with
  | nil => rfl
  | cons e l ih => simp [Thread.setRegs, ih]
@[simp] theorem Thread.setRegs_lastgasp (th : Thread) (l : List (Nat × Word)) : (th.setRegs l).lastgasp = th.lastgasp := by
  induction l generalizing th with
  | nil => rfl
  | cons e l ih => simp [Thread.setRegs, ih]
@[simp] theorem Thread.setRegs_pc (th : Thread) (l : List (Nat × Word)) : (th.setRegs l).pc = th.pc := by
  induction l generalizing th with
  | nil => rfl
  | cons e l ih => simp [Thread.setRegs, ih]
@[simp] theorem Thread.setRegs_dla (th : Thread) (l : List (Nat × Word)) : (th.setRegs l).dla = th.dla := by
  induction l generalizing th with
  | nil => rfl
  | cons e l ih => simp [Thread.setRegs, ih]
@[simp] theorem Thread.setRegs_dlb (th : Thread) (l : List (Nat × Word)) : (th.setRegs l).dlb = th.dlb := by
  induction l generalizing th with
  | nil => rfl
  | cons e l ih => simp [Thread.setRegs, ih]
@[simp] theorem Thread.setRegs_wp (th : Thread) (l : List (Nat × Word)) : (th.setRegs l).wp = th.wp := by
  induction l generalizing th with
  | nil => rfl
  | cons e l ih => simp [Thread.setRegs, ih]
@[simp] theorem Thread.setRegs_psw (th : Thread) (l : List (Nat × Word)) : (th.setRegs l).psw = th.psw := by
  induction l generalizing th with
  | nil => rfl
  | cons e l ih => simp [Thread.setRegs, ih]
@[simp] theorem Thread.setRegs_precise (th : Thread) (l : List (Nat × Word)) : (th.setRegs l).precise = th.precise := by
  induction l generalizing th with
  | nil => rfl
  | cons e l ih => simp [Thread.setRegs, ih]
@[simp] theorem Thread.setRegs_wt (th : Thread) (l : List (Nat × Word)) : (th.setRegs l).wt = th.wt := by
  induction l generalizing th with
  | nil => rfl
  | cons e l ih => simp [Thread.setRegs, ih]

@[simp] theorem State.thr_msetList (s : State) (a : Nat) (ws : List Word) (t : Nat) : (s.msetList a ws).thr t = s.thr t := by
  simp [State.thr]

/-! ## The canonical form is kept -/

theorem State.mset_wf (s : State) (a : Nat) (w : Word) (h : Tab.wf pw0 s.mem = true) : Tab.wf pw0 (s.mset a w).mem = true :=
  Tab.wf_set _ _ _ _ h

theorem State.msetList_wf (ws : List Word) (s : State) (a : Nat) (h : Tab.wf pw0 s.mem = true) :
    Tab.wf pw0 (s.msetList a ws).mem = true := by
  induction ws generalizing s a with
  | nil => exact h
  | cons w ws ih => exact ih _ _ (State.mset_wf s a w h)

theorem State.tset_wf (s : State) (p i : Nat) (w : Word) (h : Tab.wf pw0 s.tiles = true) : Tab.wf pw0 (s.tset p i w).tiles = true :=
  Tab.wf_set _ _ _ _ h

theorem State.tsetList_wf (ws : List Word) (s : State) (p i : Nat) (h : Tab.wf pw0 s.tiles = true) :
    Tab.wf pw0 (s.tsetList p i ws).tiles = true := by
  induction ws generalizing s i with
  | nil => exact h
  | cons w ws ih => exact ih _ _ (State.tset_wf s p i w h)

theorem State.clearTile_wf (s : State) (p : Nat) (h : Tab.wf pw0 s.tiles = true) : Tab.wf pw0 (s.clearTile p).tiles = true :=
  Tab.wf_filter _ _ _ h

theorem State.setPoison_wf (s : State) (p : Nat) (b : Bool) (h : Tab.wf false s.poison = true) :
    Tab.wf false (s.setPoison p b).poison = true := Tab.wf_set _ _ _ _ h

end Sys2Proof.Machine
end

