-- ==== Sys2Proof/Laws/Keep.lean ====
section
/-!
SUPPORT. What the shared operations leave alone: for each, that it keeps the queue, local memory, the tiles and poison, where it does.
Each conjunct is a rewriting rule.
-/
namespace Sys2Proof.Machine

theorem State.foldl_pending {α : Type} (l : List α) (g : State → α → State) (s : State) (h : ∀ s x, (g s x).pending = s.pending) :
    (l.foldl g s).pending = s.pending := by
  induction l generalizing s with
  | nil => rfl
  | cons x l ih => rw [List.foldl_cons, ih, h]

theorem State.foldl_mem {α : Type} (l : List α) (g : State → α → State) (s : State) (h : ∀ s x, (g s x).mem = s.mem) :
    (l.foldl g s).mem = s.mem := by
  induction l generalizing s with
  | nil => rfl
  | cons x l ih => rw [List.foldl_cons, ih, h]

theorem State.foldl_tiles {α : Type} (l : List α) (g : State → α → State) (s : State) (h : ∀ s x, (g s x).tiles = s.tiles) :
    (l.foldl g s).tiles = s.tiles := by
  induction l generalizing s with
  | nil => rfl
  | cons x l ih => rw [List.foldl_cons, ih, h]

theorem State.foldl_poison {α : Type} (l : List α) (g : State → α → State) (s : State) (h : ∀ s x, (g s x).poison = s.poison) :
    (l.foldl g s).poison = s.poison := by
  induction l generalizing s with
  | nil => rfl
  | cons x l ih => rw [List.foldl_cons, ih, h]

@[simp] theorem State.fresh_kept (s : State) :
    (s.fresh).2.pending = s.pending ∧
    (s.fresh).2.mem = s.mem ∧
    (s.fresh).2.tiles = s.tiles ∧
    (s.fresh).2.poison = s.poison := by
  refine ⟨?_, ?_, ?_, ?_⟩ <;> unfold State.fresh
  all_goals try dsimp only

@[simp] theorem State.clearTile_kept (s : State) (p : Nat) :
    (s.clearTile p).pending = s.pending ∧
    (s.clearTile p).mem = s.mem := by
  refine ⟨?_, ?_⟩ <;> unfold State.clearTile
  all_goals try dsimp only

@[simp] theorem State.emit_kept (s : State) (cls : Nat) (dst : CoreId) (payload : List Word) :
    (s.emit cls dst payload).pending = s.pending ∧
    (s.emit cls dst payload).mem = s.mem ∧
    (s.emit cls dst payload).tiles = s.tiles ∧
    (s.emit cls dst payload).poison = s.poison := by
  refine ⟨?_, ?_, ?_, ?_⟩ <;> unfold State.emit
  all_goals try dsimp only

@[simp] theorem State.notify_kept (s : State) (code : BitVec 8) (words : List Word) :
    (s.notify code words).pending = s.pending ∧
    (s.notify code words).mem = s.mem ∧
    (s.notify code words).tiles = s.tiles ∧
    (s.notify code words).poison = s.poison := by
  refine ⟨?_, ?_, ?_, ?_⟩ <;> unfold State.notify
  all_goals try dsimp only
  all_goals repeat'
    first
    | with_reducible rfl
    | split
    | simp

@[simp] theorem State.faultNotice_kept (s : State) (t : Nat) (code aux : BitVec 8) (fpc faddr : Word) (more : List Word) :
    (s.faultNotice t code aux fpc faddr more).pending = s.pending ∧
    (s.faultNotice t code aux fpc faddr more).mem = s.mem ∧
    (s.faultNotice t code aux fpc faddr more).tiles = s.tiles ∧
    (s.faultNotice t code aux fpc faddr more).poison = s.poison := by
  refine ⟨?_, ?_, ?_, ?_⟩ <;> unfold State.faultNotice
  all_goals repeat'
    first
    | with_reducible rfl
    | split
    | simp

@[simp] theorem State.faultNoticeNone_kept (s : State) (code aux : BitVec 8) (faddr : Word) (more : List Word) :
    (s.faultNoticeNone code aux faddr more).pending = s.pending ∧
    (s.faultNoticeNone code aux faddr more).mem = s.mem ∧
    (s.faultNoticeNone code aux faddr more).tiles = s.tiles ∧
    (s.faultNoticeNone code aux faddr more).poison = s.poison := by
  refine ⟨?_, ?_, ?_, ?_⟩ <;> unfold State.faultNoticeNone
  all_goals repeat'
    first
    | with_reducible rfl
    | split
    | simp

@[simp] theorem State.wardenReport_kept (s : State) (it : Item) (cruise : Bool) :
    (s.wardenReport it cruise).pending = s.pending ∧
    (s.wardenReport it cruise).mem = s.mem ∧
    (s.wardenReport it cruise).tiles = s.tiles ∧
    (s.wardenReport it cruise).poison = s.poison := by
  refine ⟨?_, ?_, ?_, ?_⟩ <;> unfold State.wardenReport
  all_goals try dsimp only
  all_goals repeat'
    first
    | with_reducible rfl
    | split
    | simp

@[simp] theorem State.cruiseFind_kept (s : State) (aux : BitVec 8) (g m : Nat) (ovw : Bool) :
    (s.cruiseFind aux g m ovw).pending = s.pending ∧
    (s.cruiseFind aux g m ovw).mem = s.mem ∧
    (s.cruiseFind aux g m ovw).tiles = s.tiles ∧
    (s.cruiseFind aux g m ovw).poison = s.poison := by
  refine ⟨?_, ?_, ?_, ?_⟩ <;> unfold State.cruiseFind
  all_goals try dsimp only
  all_goals repeat'
    first
    | with_reducible rfl
    | split
    | simp

@[simp] theorem State.inboundFinds_kept (s : State) (a n : Nat) :
    (s.inboundFinds a n).pending = s.pending ∧
    (s.inboundFinds a n).mem = s.mem ∧
    (s.inboundFinds a n).tiles = s.tiles ∧
    (s.inboundFinds a n).poison = s.poison := by
  refine ⟨?_, ?_, ?_, ?_⟩ <;> unfold State.inboundFinds
  all_goals try dsimp only
  · all_goals repeat'
      first
      | refine (State.foldl_pending _ _ _ (fun s x => ?_)).trans ?_
      | with_reducible rfl
      | split
      | simp
  · all_goals repeat'
      first
      | refine (State.foldl_mem _ _ _ (fun s x => ?_)).trans ?_
      | with_reducible rfl
      | split
      | simp
  · all_goals repeat'
      first
      | refine (State.foldl_tiles _ _ _ (fun s x => ?_)).trans ?_
      | with_reducible rfl
      | split
      | simp
  · all_goals repeat'
      first
      | refine (State.foldl_poison _ _ _ (fun s x => ?_)).trans ?_
      | with_reducible rfl
      | split
      | simp

@[simp] theorem State.setEv_kept (s : State) (t v : Nat) :
    (s.setEv t v).pending = s.pending ∧
    (s.setEv t v).mem = s.mem ∧
    (s.setEv t v).tiles = s.tiles ∧
    (s.setEv t v).poison = s.poison := by
  refine ⟨?_, ?_, ?_, ?_⟩ <;> unfold State.setEv
  all_goals repeat'
    first
    | with_reducible rfl
    | split
    | simp

@[simp] theorem State.retire_kept (s : State) (t id : Nat) (vals : List Word) :
    (s.retire t id vals).pending = s.pending ∧
    (s.retire t id vals).mem = s.mem ∧
    (s.retire t id vals).tiles = s.tiles ∧
    (s.retire t id vals).poison = s.poison := by
  refine ⟨?_, ?_, ?_, ?_⟩ <;> unfold State.retire
  all_goals try dsimp only
  all_goals repeat'
    first
    | with_reducible rfl
    | split
    | simp

@[simp] theorem State.dropOp_kept (s : State) (t id : Nat) :
    (s.dropOp t id).pending = s.pending ∧
    (s.dropOp t id).mem = s.mem ∧
    (s.dropOp t id).tiles = s.tiles ∧
    (s.dropOp t id).poison = s.poison := by
  refine ⟨?_, ?_, ?_, ?_⟩ <;> unfold State.dropOp
  all_goals repeat'
    first
    | with_reducible rfl
    | split
    | simp

@[simp] theorem State.countCompl_kept (s : State) (t : Nat) (it : Item) :
    (s.countCompl t it).pending = s.pending ∧
    (s.countCompl t it).mem = s.mem ∧
    (s.countCompl t it).tiles = s.tiles ∧
    (s.countCompl t it).poison = s.poison := by
  refine ⟨?_, ?_, ?_, ?_⟩ <;> unfold State.countCompl
  all_goals repeat'
    first
    | with_reducible rfl
    | split
    | simp

@[simp] theorem State.completion_kept (s : State) (t : Nat) (held wake : Bool) (it : Item) :
    (s.completion t held wake it).pending = s.pending ∧
    (s.completion t held wake it).mem = s.mem ∧
    (s.completion t held wake it).tiles = s.tiles ∧
    (s.completion t held wake it).poison = s.poison := by
  refine ⟨?_, ?_, ?_, ?_⟩ <;> unfold State.completion
  all_goals try dsimp only
  all_goals repeat'
    first
    | with_reducible rfl
    | split
    | simp

@[simp] theorem State.wakeFault_kept (s : State) (t : Nat) (code aux : BitVec 8) :
    (s.wakeFault t code aux).pending = s.pending ∧
    (s.wakeFault t code aux).mem = s.mem ∧
    (s.wakeFault t code aux).tiles = s.tiles ∧
    (s.wakeFault t code aux).poison = s.poison := by
  refine ⟨?_, ?_, ?_, ?_⟩ <;> unfold State.wakeFault
  all_goals try dsimp only
  all_goals repeat'
    first
    | with_reducible rfl
    | split
    | simp

@[simp] theorem State.complete_kept (s : State) (t id : Nat) (it : Item) :
    (s.complete t id it).pending = s.pending ∧
    (s.complete t id it).mem = s.mem ∧
    (s.complete t id it).tiles = s.tiles ∧
    (s.complete t id it).poison = s.poison := by
  refine ⟨?_, ?_, ?_, ?_⟩ <;> unfold State.complete
  all_goals try dsimp only
  all_goals repeat'
    first
    | with_reducible rfl
    | split
    | simp

@[simp] theorem State.completeLoose_kept (s : State) (t : Nat) (it : Item) :
    (s.completeLoose t it).pending = s.pending ∧
    (s.completeLoose t it).mem = s.mem ∧
    (s.completeLoose t it).tiles = s.tiles ∧
    (s.completeLoose t it).poison = s.poison := by
  refine ⟨?_, ?_, ?_, ?_⟩ <;> unfold State.completeLoose
  all_goals repeat'
    first
    | with_reducible rfl
    | split
    | simp

@[simp] theorem State.lateStore_kept (s : State) (t : Nat) (addr : Word) :
    (s.lateStore t addr).pending = s.pending ∧
    (s.lateStore t addr).mem = s.mem ∧
    (s.lateStore t addr).tiles = s.tiles ∧
    (s.lateStore t addr).poison = s.poison := by
  refine ⟨?_, ?_, ?_, ?_⟩ <;> unfold State.lateStore
  all_goals try dsimp only
  all_goals repeat'
    first
    | with_reducible rfl
    | split
    | simp

@[simp] theorem State.backCredit_kept (s : State) (l : Lane) :
    (s.backCredit l).pending = s.pending ∧
    (s.backCredit l).mem = s.mem ∧
    (s.backCredit l).tiles = s.tiles ∧
    (s.backCredit l).poison = s.poison := by
  refine ⟨?_, ?_, ?_, ?_⟩ <;> unfold State.backCredit
  all_goals repeat'
    first
    | with_reducible rfl
    | split
    | simp

@[simp] theorem State.laneStop_kept (s : State) (n : Nat) (reason : BitVec 8) (fault : Bool) :
    (s.laneStop n reason fault).pending = s.pending ∧
    (s.laneStop n reason fault).mem = s.mem ∧
    (s.laneStop n reason fault).tiles = s.tiles ∧
    (s.laneStop n reason fault).poison = s.poison := by
  refine ⟨?_, ?_, ?_, ?_⟩ <;> unfold State.laneStop
  all_goals try dsimp only
  all_goals repeat'
    first
    | with_reducible rfl
    | split
    | simp

@[simp] theorem State.outFlm_kept (s : State) (p : Packet) :
    (s.outFlm p).pending = s.pending ∧
    (s.outFlm p).mem = s.mem ∧
    (s.outFlm p).tiles = s.tiles ∧
    (s.outFlm p).poison = s.poison := by
  refine ⟨?_, ?_, ?_, ?_⟩ <;> unfold State.outFlm
  all_goals try dsimp only

@[simp] theorem State.sendMsg_kept (s : State) (e : Nat) (seq : Word) (data : List Word) :
    (s.sendMsg e seq data).pending = s.pending ∧
    (s.sendMsg e seq data).mem = s.mem ∧
    (s.sendMsg e seq data).tiles = s.tiles ∧
    (s.sendMsg e seq data).poison = s.poison := by
  refine ⟨?_, ?_, ?_, ?_⟩ <;> unfold State.sendMsg
  all_goals repeat'
    first
    | with_reducible rfl
    | split
    | simp

@[simp] theorem State.sendClose_kept (s : State) (e : Nat) :
    (s.sendClose e).pending = s.pending ∧
    (s.sendClose e).mem = s.mem ∧
    (s.sendClose e).tiles = s.tiles ∧
    (s.sendClose e).poison = s.poison := by
  refine ⟨?_, ?_, ?_, ?_⟩ <;> unfold State.sendClose
  all_goals repeat'
    first
    | with_reducible rfl
    | split
    | simp

@[simp] theorem State.sendCredit_kept (s : State) (e n : Nat) :
    (s.sendCredit e n).pending = s.pending ∧
    (s.sendCredit e n).mem = s.mem ∧
    (s.sendCredit e n).tiles = s.tiles ∧
    (s.sendCredit e n).poison = s.poison := by
  refine ⟨?_, ?_, ?_, ?_⟩ <;> unfold State.sendCredit
  all_goals repeat'
    first
    | with_reducible rfl
    | split
    | simp

@[simp] theorem State.sendClosed_kept (s : State) (e why : Nat) :
    (s.sendClosed e why).pending = s.pending ∧
    (s.sendClosed e why).mem = s.mem ∧
    (s.sendClosed e why).tiles = s.tiles ∧
    (s.sendClosed e why).poison = s.poison := by
  refine ⟨?_, ?_, ?_, ?_⟩ <;> unfold State.sendClosed
  all_goals repeat'
    first
    | with_reducible rfl
    | split
    | simp

@[simp] theorem State.endEvent_kept (s : State) (e : Nat) :
    (s.endEvent e).pending = s.pending ∧
    (s.endEvent e).mem = s.mem ∧
    (s.endEvent e).tiles = s.tiles ∧
    (s.endEvent e).poison = s.poison := by
  refine ⟨?_, ?_, ?_, ?_⟩ <;> unfold State.endEvent
  all_goals repeat'
    first
    | with_reducible rfl
    | split
    | simp

@[simp] theorem State.creditArrive_kept (s : State) (e n : Nat) :
    (s.creditArrive e n).pending = s.pending ∧
    (s.creditArrive e n).mem = s.mem ∧
    (s.creditArrive e n).tiles = s.tiles ∧
    (s.creditArrive e n).poison = s.poison := by
  refine ⟨?_, ?_, ?_, ?_⟩ <;> unfold State.creditArrive
  all_goals try dsimp only
  all_goals repeat'
    first
    | with_reducible rfl
    | split
    | simp

@[simp] theorem State.freeSlot_kept (s : State) (e : Nat) :
    (s.freeSlot e).pending = s.pending ∧
    (s.freeSlot e).mem = s.mem ∧
    (s.freeSlot e).tiles = s.tiles ∧
    (s.freeSlot e).poison = s.poison := by
  refine ⟨?_, ?_, ?_, ?_⟩ <;> unfold State.freeSlot
  all_goals try dsimp only
  all_goals repeat'
    first
    | with_reducible rfl
    | split
    | simp

@[simp] theorem State.take_kept (s : State) (e : Nat) :
    (s.take e).pending = s.pending ∧
    (s.take e).mem = s.mem ∧
    (s.take e).tiles = s.tiles ∧
    (s.take e).poison = s.poison := by
  refine ⟨?_, ?_, ?_, ?_⟩ <;> unfold State.take
  all_goals try dsimp only
  all_goals repeat'
    first
    | with_reducible rfl
    | split
    | simp

@[simp] theorem State.wakeOnEnd_kept (s : State) (e : Nat) :
    (s.wakeOnEnd e).pending = s.pending ∧
    (s.wakeOnEnd e).mem = s.mem ∧
    (s.wakeOnEnd e).tiles = s.tiles ∧
    (s.wakeOnEnd e).poison = s.poison := by
  refine ⟨?_, ?_, ?_, ?_⟩ <;> unfold State.wakeOnEnd
  all_goals try dsimp only
  all_goals repeat'
    first
    | with_reducible rfl
    | split
    | simp

@[simp] theorem State.stopMessages_kept (s : State) (e : Nat) :
    (s.stopMessages e).pending = s.pending ∧
    (s.stopMessages e).mem = s.mem ∧
    (s.stopMessages e).tiles = s.tiles ∧
    (s.stopMessages e).poison = s.poison := by
  refine ⟨?_, ?_, ?_, ?_⟩ <;> unfold State.stopMessages
  all_goals try dsimp only
  · all_goals repeat'
      first
      | refine (State.foldl_pending _ _ _ (fun s x => ?_)).trans ?_
      | with_reducible rfl
      | split
      | simp
  · all_goals repeat'
      first
      | refine (State.foldl_mem _ _ _ (fun s x => ?_)).trans ?_
      | with_reducible rfl
      | split
      | simp
  · all_goals repeat'
      first
      | refine (State.foldl_tiles _ _ _ (fun s x => ?_)).trans ?_
      | with_reducible rfl
      | split
      | simp
  · all_goals repeat'
      first
      | refine (State.foldl_poison _ _ _ (fun s x => ?_)).trans ?_
      | with_reducible rfl
      | split
      | simp

@[simp] theorem State.leftOpen_kept (s : State) (e : Nat) :
    (s.leftOpen e).pending = s.pending ∧
    (s.leftOpen e).mem = s.mem ∧
    (s.leftOpen e).tiles = s.tiles ∧
    (s.leftOpen e).poison = s.poison := by
  refine ⟨?_, ?_, ?_, ?_⟩ <;> unfold State.leftOpen
  all_goals repeat'
    first
    | with_reducible rfl
    | split
    | simp

@[simp] theorem State.dropInbound_kept (s : State) (e : Nat) :
    (s.dropInbound e).pending = s.pending ∧
    (s.dropInbound e).mem = s.mem ∧
    (s.dropInbound e).tiles = s.tiles ∧
    (s.dropInbound e).poison = s.poison := by
  refine ⟨?_, ?_, ?_, ?_⟩ <;> unfold State.dropInbound
  all_goals try dsimp only

@[simp] theorem State.disarm_kept (s : State) (e : Nat) :
    (s.disarm e).pending = s.pending ∧
    (s.disarm e).mem = s.mem ∧
    (s.disarm e).tiles = s.tiles ∧
    (s.disarm e).poison = s.poison := by
  refine ⟨?_, ?_, ?_, ?_⟩ <;> unfold State.disarm
  all_goals repeat'
    first
    | with_reducible rfl
    | split
    | simp

@[simp] theorem State.closeRecv_kept (s : State) (e why : Nat) :
    (s.closeRecv e why).pending = s.pending ∧
    (s.closeRecv e why).mem = s.mem ∧
    (s.closeRecv e why).tiles = s.tiles ∧
    (s.closeRecv e why).poison = s.poison := by
  refine ⟨?_, ?_, ?_, ?_⟩ <;> unfold State.closeRecv
  all_goals try dsimp only
  all_goals repeat'
    first
    | with_reducible rfl
    | split
    | simp

@[simp] theorem State.closeSend_kept (s : State) (e : Nat) :
    (s.closeSend e).pending = s.pending ∧
    (s.closeSend e).mem = s.mem ∧
    (s.closeSend e).tiles = s.tiles ∧
    (s.closeSend e).poison = s.poison := by
  refine ⟨?_, ?_, ?_, ?_⟩ <;> unfold State.closeSend
  all_goals try dsimp only
  all_goals repeat'
    first
    | with_reducible rfl
    | split
    | simp

@[simp] theorem State.peerGone_kept (s : State) (e : Nat) (st : EndSt) (pacc pcon : Word) :
    (s.peerGone e st pacc pcon).pending = s.pending ∧
    (s.peerGone e st pacc pcon).mem = s.mem ∧
    (s.peerGone e st pacc pcon).tiles = s.tiles ∧
    (s.peerGone e st pacc pcon).poison = s.poison := by
  refine ⟨?_, ?_, ?_, ?_⟩ <;> unfold State.peerGone
  all_goals try dsimp only
  all_goals repeat'
    first
    | with_reducible rfl
    | split
    | simp

@[simp] theorem State.unbindEnd_kept (s : State) (e : Nat) :
    (s.unbindEnd e).pending = s.pending ∧
    (s.unbindEnd e).mem = s.mem ∧
    (s.unbindEnd e).tiles = s.tiles ∧
    (s.unbindEnd e).poison = s.poison := by
  refine ⟨?_, ?_, ?_, ?_⟩ <;> unfold State.unbindEnd
  all_goals try dsimp only
  all_goals repeat'
    first
    | with_reducible rfl
    | split
    | simp

@[simp] theorem State.openEnd_kept (s : State) (e : Nat) :
    (s.openEnd e).pending = s.pending ∧
    (s.openEnd e).mem = s.mem ∧
    (s.openEnd e).tiles = s.tiles ∧
    (s.openEnd e).poison = s.poison := by
  refine ⟨?_, ?_, ?_, ?_⟩ <;> unfold State.openEnd
  all_goals try dsimp only
  all_goals repeat'
    first
    | with_reducible rfl
    | split
    | simp

@[simp] theorem State.ownerEnds_kept (s : State) (t why : Nat) :
    (s.ownerEnds t why).pending = s.pending ∧
    (s.ownerEnds t why).mem = s.mem ∧
    (s.ownerEnds t why).tiles = s.tiles ∧
    (s.ownerEnds t why).poison = s.poison := by
  refine ⟨?_, ?_, ?_, ?_⟩ <;> unfold State.ownerEnds
  all_goals try dsimp only
  · all_goals repeat'
      first
      | refine (State.foldl_pending _ _ _ (fun s x => ?_)).trans ?_
      | with_reducible rfl
      | split
      | simp
  · all_goals repeat'
      first
      | refine (State.foldl_mem _ _ _ (fun s x => ?_)).trans ?_
      | with_reducible rfl
      | split
      | simp
  · all_goals repeat'
      first
      | refine (State.foldl_tiles _ _ _ (fun s x => ?_)).trans ?_
      | with_reducible rfl
      | split
      | simp
  · all_goals repeat'
      first
      | refine (State.foldl_poison _ _ _ (fun s x => ?_)).trans ?_
      | with_reducible rfl
      | split
      | simp

@[simp] theorem State.sendAllClosed_kept (s : State) (why : Nat) :
    (s.sendAllClosed why).pending = s.pending ∧
    (s.sendAllClosed why).mem = s.mem ∧
    (s.sendAllClosed why).tiles = s.tiles ∧
    (s.sendAllClosed why).poison = s.poison := by
  refine ⟨?_, ?_, ?_, ?_⟩ <;> unfold State.sendAllClosed
  · all_goals repeat'
      first
      | refine (State.foldl_pending _ _ _ (fun s x => ?_)).trans ?_
      | with_reducible rfl
      | split
      | simp
  · all_goals repeat'
      first
      | refine (State.foldl_mem _ _ _ (fun s x => ?_)).trans ?_
      | with_reducible rfl
      | split
      | simp
  · all_goals repeat'
      first
      | refine (State.foldl_tiles _ _ _ (fun s x => ?_)).trans ?_
      | with_reducible rfl
      | split
      | simp
  · all_goals repeat'
      first
      | refine (State.foldl_poison _ _ _ (fun s x => ?_)).trans ?_
      | with_reducible rfl
      | split
      | simp

@[simp] theorem State.dropService_kept (s : State) (t : Nat) :
    (s.dropService t).pending = s.pending ∧
    (s.dropService t).mem = s.mem ∧
    (s.dropService t).tiles = s.tiles ∧
    (s.dropService t).poison = s.poison := by
  refine ⟨?_, ?_, ?_, ?_⟩ <;> unfold State.dropService
  all_goals try dsimp only

@[simp] theorem State.dropWork_kept (s : State) (t why : Nat) :
    (s.dropWork t why).pending = s.pending ∧
    (s.dropWork t why).mem = s.mem ∧
    (s.dropWork t why).tiles = s.tiles ∧
    (s.dropWork t why).poison = s.poison := by
  refine ⟨?_, ?_, ?_, ?_⟩ <;> unfold State.dropWork
  all_goals try dsimp only
  · all_goals repeat'
      first
      | refine (State.foldl_pending _ _ _ (fun s x => ?_)).trans ?_
      | with_reducible rfl
      | split
      | simp
  · all_goals repeat'
      first
      | refine (State.foldl_mem _ _ _ (fun s x => ?_)).trans ?_
      | with_reducible rfl
      | split
      | simp
  · all_goals repeat'
      first
      | refine (State.foldl_tiles _ _ _ (fun s x => ?_)).trans ?_
      | with_reducible rfl
      | split
      | simp
  · all_goals repeat'
      first
      | refine (State.foldl_poison _ _ _ (fun s x => ?_)).trans ?_
      | with_reducible rfl
      | split
      | simp

@[simp] theorem State.dropReports_kept (s : State) (t : Nat) :
    (s.dropReports t).pending = s.pending ∧
    (s.dropReports t).mem = s.mem ∧
    (s.dropReports t).tiles = s.tiles ∧
    (s.dropReports t).poison = s.poison := by
  refine ⟨?_, ?_, ?_, ?_⟩ <;> unfold State.dropReports
  all_goals repeat'
    first
    | with_reducible rfl
    | split
    | simp

@[simp] theorem State.deadline_kept (s : State) (t : Nat) (code : BitVec 8) (more : List Word) :
    (s.deadline t code more).pending = s.pending ∧
    (s.deadline t code more).mem = s.mem ∧
    (s.deadline t code more).tiles = s.tiles ∧
    (s.deadline t code more).poison = s.poison := by
  refine ⟨?_, ?_, ?_, ?_⟩ <;> unfold State.deadline
  all_goals try dsimp only
  all_goals repeat'
    first
    | with_reducible rfl
    | split
    | simp

@[simp] theorem State.tellDeadlines_kept (s : State) (t : Nat) :
    (s.tellDeadlines t).pending = s.pending ∧
    (s.tellDeadlines t).mem = s.mem ∧
    (s.tellDeadlines t).tiles = s.tiles ∧
    (s.tellDeadlines t).poison = s.poison := by
  refine ⟨?_, ?_, ?_, ?_⟩ <;> unfold State.tellDeadlines
  all_goals try dsimp only
  all_goals repeat'
    first
    | with_reducible rfl
    | split
    | simp

@[simp] theorem State.fell_kept (s : State) (t : Nat) (reason : BitVec 8) (pc psw cause fpc faddr : Word) :
    (s.fell t reason pc psw cause fpc faddr).pending = s.pending ∧
    (s.fell t reason pc psw cause fpc faddr).mem = s.mem ∧
    (s.fell t reason pc psw cause fpc faddr).tiles = s.tiles ∧
    (s.fell t reason pc psw cause fpc faddr).poison = s.poison := by
  refine ⟨?_, ?_, ?_, ?_⟩ <;> unfold State.fell
  all_goals try dsimp only
  all_goals repeat'
    first
    | with_reducible rfl
    | split
    | simp

@[simp] theorem State.takePick_kept (s : State) (t : Nat) (c : Nat × Nat × Pick) :
    (s.takePick t c).1.pending = s.pending ∧
    (s.takePick t c).1.mem = s.mem ∧
    (s.takePick t c).1.tiles = s.tiles ∧
    (s.takePick t c).1.poison = s.poison := by
  refine ⟨?_, ?_, ?_, ?_⟩ <;> unfold State.takePick
  all_goals try dsimp only
  all_goals repeat'
    first
    | with_reducible rfl
    | split
    | simp

@[simp] theorem State.offEngine_kept (s : State) (id : Nat) :
    (s.offEngine id).pending = s.pending ∧
    (s.offEngine id).mem = s.mem ∧
    (s.offEngine id).tiles = s.tiles ∧
    (s.offEngine id).poison = s.poison := by
  refine ⟨?_, ?_, ?_, ?_⟩ <;> unfold State.offEngine
  all_goals try dsimp only

@[simp] theorem State.stopTile_kept (s : State) (o : TileOp) :
    (s.stopTile o).pending = s.pending ∧
    (s.stopTile o).tiles = s.tiles := by
  refine ⟨?_, ?_⟩ <;> unfold State.stopTile
  all_goals try dsimp only
  all_goals repeat'
    first
    | with_reducible rfl
    | split
    | simp

@[simp] theorem State.stopHeld_kept (s : State) (t : Nat) :
    (s.stopHeld t).pending = s.pending ∧
    (s.stopHeld t).tiles = s.tiles := by
  refine ⟨?_, ?_⟩ <;> unfold State.stopHeld
  · all_goals repeat'
      first
      | refine (State.foldl_pending _ _ _ (fun s x => ?_)).trans ?_
      | with_reducible rfl
      | split
      | simp
  · all_goals repeat'
      first
      | refine (State.foldl_tiles _ _ _ (fun s x => ?_)).trans ?_
      | with_reducible rfl
      | split
      | simp

@[simp] theorem State.fellAt_kept (s : State) (t : Nat) (reason : BitVec 8) (faddr : Word) :
    (s.fellAt t reason faddr).pending = s.pending ∧
    (s.fellAt t reason faddr).mem = s.mem ∧
    (s.fellAt t reason faddr).tiles = s.tiles ∧
    (s.fellAt t reason faddr).poison = s.poison := by
  refine ⟨?_, ?_, ?_, ?_⟩ <;> unfold State.fellAt
  all_goals try dsimp only
  all_goals repeat'
    first
    | with_reducible rfl
    | split
    | simp

@[simp] theorem State.spillL_kept (s : State) (t : Nat) :
    (s.spillL t).pending = s.pending ∧
    (s.spillL t).tiles = s.tiles ∧
    (s.spillL t).poison = s.poison := by
  refine ⟨?_, ?_, ?_⟩ <;> unfold State.spillL
  all_goals try dsimp only
  all_goals repeat'
    first
    | with_reducible rfl
    | split
    | simp

@[simp] theorem State.spillShapes_kept (s : State) (t : Nat) :
    (s.spillShapes t).pending = s.pending ∧
    (s.spillShapes t).tiles = s.tiles ∧
    (s.spillShapes t).poison = s.poison := by
  refine ⟨?_, ?_, ?_⟩ <;> unfold State.spillShapes
  all_goals try dsimp only
  all_goals repeat'
    first
    | with_reducible rfl
    | split
    | simp

@[simp] theorem State.precise_kept (s : State) (t : Nat) (code aux : BitVec 8) (fpc faddr : Word) :
    (s.precise t code aux fpc faddr).pending = s.pending ∧
    (s.precise t code aux fpc faddr).mem = s.mem ∧
    (s.precise t code aux fpc faddr).tiles = s.tiles ∧
    (s.precise t code aux fpc faddr).poison = s.poison := by
  refine ⟨?_, ?_, ?_, ?_⟩ <;> unfold State.precise
  all_goals repeat'
    first
    | with_reducible rfl
    | split
    | simp

@[simp] theorem State.eret_kept (s : State) (t : Nat) :
    (s.eret t).pending = s.pending ∧
    (s.eret t).mem = s.mem ∧
    (s.eret t).tiles = s.tiles ∧
    (s.eret t).poison = s.poison := by
  refine ⟨?_, ?_, ?_, ?_⟩ <;> unfold State.eret
  all_goals try dsimp only
  · all_goals repeat'
      first
      | refine (State.foldl_pending _ _ _ (fun s x => ?_)).trans ?_
      | with_reducible rfl
      | split
      | simp
  · all_goals repeat'
      first
      | refine (State.foldl_mem _ _ _ (fun s x => ?_)).trans ?_
      | with_reducible rfl
      | split
      | simp
  · all_goals repeat'
      first
      | refine (State.foldl_tiles _ _ _ (fun s x => ?_)).trans ?_
      | with_reducible rfl
      | split
      | simp
  · all_goals repeat'
      first
      | refine (State.foldl_poison _ _ _ (fun s x => ?_)).trans ?_
      | with_reducible rfl
      | split
      | simp

@[simp] theorem State.faultP_kept (s : State) (t : Nat) (code aux : BitVec 8) (faddr : Word) :
    (s.faultP t code aux faddr).pending = s.pending ∧
    (s.faultP t code aux faddr).mem = s.mem ∧
    (s.faultP t code aux faddr).tiles = s.tiles ∧
    (s.faultP t code aux faddr).poison = s.poison := by
  refine ⟨?_, ?_, ?_, ?_⟩ <;> unfold State.faultP
  all_goals try dsimp only
  all_goals repeat'
    first
    | with_reducible rfl
    | split
    | simp

@[simp] theorem State.illegalP_kept (s : State) (t : Nat) (aux : BitVec 8) (isRep : Bool) :
    (s.illegalP t aux isRep).pending = s.pending ∧
    (s.illegalP t aux isRep).mem = s.mem ∧
    (s.illegalP t aux isRep).tiles = s.tiles ∧
    (s.illegalP t aux isRep).poison = s.poison := by
  refine ⟨?_, ?_, ?_, ?_⟩ <;> unfold State.illegalP
  all_goals try dsimp only
  all_goals repeat'
    first
    | with_reducible rfl
    | split
    | simp

@[simp] theorem State.finish_kept (s : State) (t words : Nat) :
    (s.finish t words).pending = s.pending ∧
    (s.finish t words).mem = s.mem ∧
    (s.finish t words).tiles = s.tiles ∧
    (s.finish t words).poison = s.poison := by
  refine ⟨?_, ?_, ?_, ?_⟩ <;> unfold State.finish
  all_goals try dsimp only
  all_goals repeat'
    first
    | with_reducible rfl
    | split
    | simp

@[simp] theorem State.finishA_kept (s : State) (t words acc : Nat) :
    (s.finishA t words acc).pending = s.pending ∧
    (s.finishA t words acc).mem = s.mem ∧
    (s.finishA t words acc).tiles = s.tiles ∧
    (s.finishA t words acc).poison = s.poison := by
  refine ⟨?_, ?_, ?_, ?_⟩ <;> unfold State.finishA
  all_goals repeat'
    first
    | with_reducible rfl
    | split
    | simp

@[simp] theorem State.finishAt_kept (s : State) (t : Nat) (pc : Word) :
    (s.finishAt t pc).pending = s.pending ∧
    (s.finishAt t pc).mem = s.mem ∧
    (s.finishAt t pc).tiles = s.tiles ∧
    (s.finishAt t pc).poison = s.poison := by
  refine ⟨?_, ?_, ?_, ?_⟩ <;> unfold State.finishAt
  all_goals repeat'
    first
    | with_reducible rfl
    | split
    | simp

@[simp] theorem State.waitAt_kept (s : State) (t : Nat) (i : Instr) :
    (s.waitAt t i).pending = s.pending ∧
    (s.waitAt t i).mem = s.mem ∧
    (s.waitAt t i).tiles = s.tiles ∧
    (s.waitAt t i).poison = s.poison := by
  refine ⟨?_, ?_, ?_, ?_⟩ <;> unfold State.waitAt
  all_goals repeat'
    first
    | with_reducible rfl
    | split
    | simp

@[simp] theorem State.park_kept (s : State) (t : Nat) (k : ParkKind) (i : Instr) :
    (s.park t k i).pending = s.pending ∧
    (s.park t k i).mem = s.mem ∧
    (s.park t k i).tiles = s.tiles ∧
    (s.park t k i).poison = s.poison := by
  refine ⟨?_, ?_, ?_, ?_⟩ <;> unfold State.park
  all_goals try dsimp only
  all_goals repeat'
    first
    | with_reducible rfl
    | split
    | simp

@[simp] theorem State.toStation_kept (s : State) (t : Nat) (op : Alu) (p : Pre) :
    (s.toStation t op p).pending = s.pending ∧
    (s.toStation t op p).mem = s.mem ∧
    (s.toStation t op p).tiles = s.tiles ∧
    (s.toStation t op p).poison = s.poison := by
  refine ⟨?_, ?_, ?_, ?_⟩ <;> unfold State.toStation
  all_goals try dsimp only
  all_goals repeat'
    first
    | with_reducible rfl
    | split
    | simp

@[simp] theorem State.handOffIn_kept (s : State) (t dist cls : Nat) (dests : List Nat) (res : List Word) (store : Bool) (words : Nat) :
    (s.handOffIn t dist cls dests res store words).2.pending = s.pending ∧
    (s.handOffIn t dist cls dests res store words).2.mem = s.mem ∧
    (s.handOffIn t dist cls dests res store words).2.tiles = s.tiles ∧
    (s.handOffIn t dist cls dests res store words).2.poison = s.poison := by
  refine ⟨?_, ?_, ?_, ?_⟩ <;> unfold State.handOffIn
  all_goals try dsimp only
  all_goals repeat'
    first
    | with_reducible rfl
    | split
    | simp

@[simp] theorem State.handOff_kept (s : State) (t cls : Nat) (dests : List Nat) (res : List Word) (store : Bool) (words : Nat) :
    (s.handOff t cls dests res store words).2.pending = s.pending ∧
    (s.handOff t cls dests res store words).2.mem = s.mem ∧
    (s.handOff t cls dests res store words).2.tiles = s.tiles ∧
    (s.handOff t cls dests res store words).2.poison = s.poison := by
  refine ⟨?_, ?_, ?_, ?_⟩ <;> unfold State.handOff
  all_goals repeat'
    first
    | with_reducible rfl
    | split
    | simp

@[simp] theorem State.reply_kept (s : State) (c : AtpCmd) (status : Nat) (results : List Word) :
    (s.reply c status results).pending = s.pending ∧
    (s.reply c status results).mem = s.mem ∧
    (s.reply c status results).tiles = s.tiles ∧
    (s.reply c status results).poison = s.poison := by
  refine ⟨?_, ?_, ?_, ?_⟩ <;> unfold State.reply
  all_goals repeat'
    first
    | with_reducible rfl
    | split
    | simp

@[simp] theorem State.atpEnd_kept (s : State) (status : Nat) (results : List Word) :
    (s.atpEnd status results).pending = s.pending ∧
    (s.atpEnd status results).mem = s.mem ∧
    (s.atpEnd status results).tiles = s.tiles ∧
    (s.atpEnd status results).poison = s.poison := by
  refine ⟨?_, ?_, ?_, ?_⟩ <;> unfold State.atpEnd
  all_goals repeat'
    first
    | with_reducible rfl
    | split
    | simp

@[simp] theorem State.discardLong_kept (s : State) :
    s.discardLong.pending = s.pending ∧
    s.discardLong.mem = s.mem ∧
    s.discardLong.tiles = s.tiles ∧
    s.discardLong.poison = s.poison := by
  refine ⟨?_, ?_, ?_, ?_⟩ <;> unfold State.discardLong <;> split <;> rfl

@[simp] theorem State.readyNotice_kept (s : State) (new : Word) :
    (s.readyNotice new).pending = s.pending ∧
    (s.readyNotice new).mem = s.mem ∧
    (s.readyNotice new).tiles = s.tiles ∧
    (s.readyNotice new).poison = s.poison := by
  refine ⟨?_, ?_, ?_, ?_⟩ <;> unfold State.readyNotice
  all_goals repeat'
    first
    | with_reducible rfl
    | split
    | simp

@[simp] theorem State.setReady_kept (s : State) (bits : Word) :
    (s.setReady bits).pending = s.pending ∧
    (s.setReady bits).mem = s.mem ∧
    (s.setReady bits).tiles = s.tiles ∧
    (s.setReady bits).poison = s.poison := by
  refine ⟨?_, ?_, ?_, ?_⟩ <;> unfold State.setReady
  all_goals try dsimp only
  all_goals repeat'
    first
    | with_reducible rfl
    | split
    | simp

@[simp] theorem State.setFall_kept (s : State) (b : Bool) :
    (s.setFall b).pending = s.pending ∧
    (s.setFall b).mem = s.mem ∧
    (s.setFall b).tiles = s.tiles ∧
    (s.setFall b).poison = s.poison := by
  refine ⟨?_, ?_, ?_, ?_⟩ <;> unfold State.setFall
  all_goals try dsimp only

@[simp] theorem State.svcEnd_kept (s : State) (t : Nat) (g0 : Word) (g1 : Option Word) :
    (s.svcEnd t g0 g1).pending = s.pending ∧
    (s.svcEnd t g0 g1).mem = s.mem ∧
    (s.svcEnd t g0 g1).tiles = s.tiles ∧
    (s.svcEnd t g0 g1).poison = s.poison := by
  refine ⟨?_, ?_, ?_, ?_⟩ <;> unfold State.svcEnd
  all_goals try dsimp only
  all_goals repeat'
    first
    | with_reducible rfl
    | split
    | simp

@[simp] theorem State.timingVoid_kept (s : State) (kind : Nat) :
    (s.timingVoid kind).pending = s.pending ∧
    (s.timingVoid kind).mem = s.mem ∧
    (s.timingVoid kind).tiles = s.tiles ∧
    (s.timingVoid kind).poison = s.poison := by
  refine ⟨?_, ?_, ?_, ?_⟩ <;> unfold State.timingVoid
  all_goals try dsimp only

@[simp] theorem State.switchReply_kept (s : State) (w : Switch) (old : Nat) :
    (s.switchReply w old).pending = s.pending ∧
    (s.switchReply w old).mem = s.mem ∧
    (s.switchReply w old).tiles = s.tiles ∧
    (s.switchReply w old).poison = s.poison := by
  refine ⟨?_, ?_, ?_, ?_⟩ <;> unfold State.switchReply
  all_goals try dsimp only
  all_goals repeat'
    first
    | with_reducible rfl
    | split
    | simp

@[simp] theorem State.nextSwitch_kept (s : State) (l : List Switch) : (s.nextSwitch l).pending = s.pending ∧
    (s.nextSwitch l).mem = s.mem ∧ (s.nextSwitch l).tiles = s.tiles ∧ (s.nextSwitch l).poison = s.poison := by
  induction l generalizing s with
  | nil => simp [State.nextSwitch]
  | cons w l ih => unfold State.nextSwitch; (repeat' split) <;> simp [ih]

@[simp] theorem State.requestSwitch_kept (s : State) (w : Switch) :
    (s.requestSwitch w).pending = s.pending ∧
    (s.requestSwitch w).mem = s.mem ∧
    (s.requestSwitch w).tiles = s.tiles ∧
    (s.requestSwitch w).poison = s.poison := by
  refine ⟨?_, ?_, ?_, ?_⟩ <;> unfold State.requestSwitch
  all_goals try dsimp only
  all_goals repeat'
    first
    | with_reducible rfl
    | split
    | simp

@[simp] theorem State.switchReport_kept (s : State) (w : Switch) (oldRoot root div : Nat) :
    (s.switchReport w oldRoot root div).pending = s.pending ∧
    (s.switchReport w oldRoot root div).mem = s.mem ∧
    (s.switchReport w oldRoot root div).tiles = s.tiles ∧
    (s.switchReport w oldRoot root div).poison = s.poison := by
  refine ⟨?_, ?_, ?_, ?_⟩ <;> unfold State.switchReport
  all_goals dsimp only
  all_goals repeat'
    first
    | with_reducible rfl
    | split
    | simp

@[simp] theorem State.endSwitch_kept (s : State) (w : Switch) :
    (s.endSwitch w).pending = s.pending ∧
    (s.endSwitch w).mem = s.mem ∧
    (s.endSwitch w).tiles = s.tiles ∧
    (s.endSwitch w).poison = s.poison := by
  refine ⟨?_, ?_, ?_, ?_⟩ <;>
    simp only [State.endSwitch, State.nextSwitch_kept, State.switchReply_kept, apply_ite State.pending, apply_ite State.mem,
      apply_ite State.tiles, apply_ite State.poison, State.setReady_kept, State.switchReport_kept, State.setFall_kept, ite_self]

@[simp] theorem State.fellArray_kept (s : State) (a slot : Nat) :
    (s.fellArray a slot).pending = s.pending ∧
    (s.fellArray a slot).mem = s.mem ∧
    (s.fellArray a slot).tiles = s.tiles ∧
    (s.fellArray a slot).poison = s.poison := by
  refine ⟨?_, ?_, ?_, ?_⟩ <;> unfold State.fellArray
  all_goals try dsimp only
  all_goals repeat'
    first
    | with_reducible rfl
    | split
    | simp

@[simp] theorem State.clearCounts_kept (s : State) (lo hi : Nat) :
    (s.clearCounts lo hi).pending = s.pending ∧
    (s.clearCounts lo hi).mem = s.mem ∧
    (s.clearCounts lo hi).tiles = s.tiles ∧
    (s.clearCounts lo hi).poison = s.poison := by
  refine ⟨?_, ?_, ?_, ?_⟩ <;> unfold State.clearCounts
  all_goals try dsimp only

@[simp] theorem State.svcHold_kept (s : State) (t : Nat) (i : Instr) :
    (s.svcHold t i).pending = s.pending ∧
    (s.svcHold t i).mem = s.mem ∧
    (s.svcHold t i).tiles = s.tiles ∧
    (s.svcHold t i).poison = s.poison := by
  refine ⟨?_, ?_, ?_, ?_⟩ <;> unfold State.svcHold
  all_goals repeat'
    first
    | with_reducible rfl
    | split
    | simp

@[simp] theorem State.serve_kept (s : State) (t svc : Nat) (g0 : Word) (i : Instr) :
    (s.serve t svc g0 i).pending = s.pending ∧
    (s.serve t svc g0 i).mem = s.mem ∧
    (s.serve t svc g0 i).tiles = s.tiles ∧
    (s.serve t svc g0 i).poison = s.poison := by
  refine ⟨?_, ?_, ?_, ?_⟩ <;> unfold State.serve
  all_goals try dsimp only
  all_goals repeat'
    first
    | with_reducible rfl
    | split
    | simp

@[simp] theorem State.hardGate_kept (s : State) (t n : Nat) (i : Instr) :
    (s.hardGate t n i).pending = s.pending ∧
    (s.hardGate t n i).mem = s.mem ∧
    (s.hardGate t n i).tiles = s.tiles ∧
    (s.hardGate t n i).poison = s.poison := by
  refine ⟨?_, ?_, ?_, ?_⟩ <;> unfold State.hardGate
  all_goals try dsimp only
  all_goals repeat'
    first
    | with_reducible rfl
    | split
    | simp

end Sys2Proof.Machine
end

