-- ==== Sys2Proof/Laws/Atpolet.lean ====
section
/-!
SUPPORT. What starting an Atpolet command does, once for all opcodes, and that a reply is the answer of the statements.
-/
namespace Sys2Proof.Machine

@[simp] theorem State.reply_eq (s : State) (c : AtpCmd) (status : Nat) (results : List Word) :
    s.reply c status results = { s with gpOut := s.gpOut ++ [c.answer s.ident status results] } := rfl

/-- A command that starts is taken off the queue and performed. -/
theorem atpStart_starts (op : Nat) (s : State) (c : AtpCmd) (run : AtpCmd → State → State) (h : s.starts op c = true) :
    atpStart op s run = .next (run c s.popped) := by
  unfold State.starts at h
  simp only [Bool.and_eq_true, decide_eq_true_eq] at h
  obtain ⟨⟨⟨⟨⟨hl, hw⟩, ha⟩, hq⟩, hop⟩, hc⟩ := h
  unfold atpStart
  have h1 : ¬ (¬ s.live = true ∨ s.warm.isSome = true ∨ s.atpCur.isSome = true) := by
    cases hw' : s.warm <;> cases ha' : s.atpCur <;> simp_all
  rw [if_neg h1]
  cases hq' : s.atpQ with
  | nil => simp [hq'] at hq
  | cons d q =>
    simp [hq'] at hq
    subst hq
    have h2 : ({ s with atpQ := q } : State).atpCheck d = none := by
      have : ({ s with atpQ := q } : State).atpCheck d = s.atpCheck d := rfl
      rw [this]
      simpa using hc
    simp only [hop, h2, ne_eq, not_true_eq_false, if_false]
    simp [State.popped, hq']

/-- A command with another opcode at the head of the queue, or none, leaves the state as it is. -/
theorem atpStart_other (op : Nat) (s : State) (run : AtpCmd → State → State)
    (h : ∀ c, s.atpQ.head? = some c → c.opcode ≠ op) : atpStart op s run = .next s := by
  unfold atpStart
  split
  · rfl
  · cases hq : s.atpQ with
    | nil => rfl
    | cons c q => simp [h c (by simp [hq])]

end Sys2Proof.Machine
end

