-- ==== Sys2Proof/Laws/Issue.lean ====
section
/-!
SUPPORT. What issue does: an instruction whose words are fetched (`State.fetches`) and whose conditions hold (`State.clear`) has its
effect, on the state in which the thread has spent the slots of its words and its passed breakpoint is forgotten; and the steps past
an instruction outside a repetition.
-/
namespace Sys2Proof.Machine

/-- The thread after the slots of `n` words of an instruction that goes on (R50). -/
def Thread.fetched (th : Thread) (n : Nat) : Thread := { th with skipBreak := false, slotNo := th.slotNo + n }

@[simp] theorem Thread.fetched_slotNo (th : Thread) (n : Nat) : (th.fetched n).slotNo = th.slotNo + n := rfl
@[simp] theorem Thread.fetched_skipBreak (th : Thread) (n : Nat) : (th.fetched n).skipBreak = false := rfl
@[simp] theorem Thread.fetched_rep (th : Thread) (n : Nat) : (th.fetched n).rep = th.rep := rfl
@[simp] theorem Thread.fetched_pc (th : Thread) (n : Nat) : (th.fetched n).pc = th.pc := rfl
@[simp] theorem Thread.fetched_pcw (th : Thread) (n : Nat) : (th.fetched n).pcw = th.pcw := rfl
@[simp] theorem Thread.fetched_ops (th : Thread) (n : Nat) : (th.fetched n).ops = th.ops := rfl
@[simp] theorem Thread.fetched_held (th : Thread) (n : Nat) : (th.fetched n).held = th.held := rfl
@[simp] theorem Thread.fetched_sup (th : Thread) (n : Nat) : (th.fetched n).sup = th.sup := rfl
@[simp] theorem Thread.fetched_wt (th : Thread) (n : Nat) : (th.fetched n).wt = th.wt := rfl
@[simp] theorem Thread.fetched_wp (th : Thread) (n : Nat) : (th.fetched n).wp = th.wp := rfl
@[simp] theorem Thread.fetched_precise (th : Thread) (n : Nat) : (th.fetched n).precise = th.precise := rfl
@[simp] theorem Thread.fetched_regNo (th : Thread) (n r : Nat) : (th.fetched n).regNo r = th.regNo r := rfl
@[simp] theorem Thread.fetched_regP (th : Thread) (n r : Nat) : (th.fetched n).regP r = th.regP r := rfl
@[simp] theorem Thread.fetched_reg (th : Thread) (n r : Nat) : (th.fetched n).reg r = th.reg r := rfl
@[simp] theorem Thread.fetched_ctlP (th : Thread) (n i : Nat) : (th.fetched n).ctlP i = th.ctlP i := rfl
@[simp] theorem Thread.fetched_ctlW (th : Thread) (n i : Nat) : (th.fetched n).ctlW i = th.ctlW i := rfl
@[simp] theorem Thread.fetched_useP (th : Thread) (n i : Nat) : (th.fetched n).useP i = th.useP i := rfl
@[simp] theorem Thread.fetched_useW (th : Thread) (n i : Nat) : (th.fetched n).useW i = th.useW i := rfl
@[simp] theorem Thread.fetched_badUse (th : Thread) (n : Nat) (l : List Nat) : (th.fetched n).badUse l = th.badUse l := rfl
@[simp] theorem Thread.fetched_mustSpill (th : Thread) (n : Nat) (p : Pre) : (th.fetched n).mustSpill p = th.mustSpill p := rfl
@[simp] theorem Thread.fetched_noRoom (th : Thread) (n : Nat) (l : List Nat) : (th.fetched n).noRoom l = th.noRoom l := rfl
@[simp] theorem Thread.fetched_pendingRegs (th : Thread) (n : Nat) : (th.fetched n).pendingRegs = th.pendingRegs := rfl

/-- The conditions of `State.clear`, one by one. -/
theorem State.clear_iff (s : State) (t : Nat) (p : Pre) :
    s.clear t p = true ↔ s.atSlot t = true ∧ (s.thr t).rep = none ∧ (s.thr t).badUse [0x00, iTTAG] = none ∧
      ((s.thr t).skipBreak = true ∨ s.breakAt t (s.thr t).pc = none) ∧ s.fetchBad (s.thr t) (s.thr t).pc p.words = none ∧
      p.illegal = none ∧ (p.sup = true → (s.thr t).sup = true ∧ (s.thr t).badUse [iPSW] = none) ∧
      (s.thr t).badUse p.ctlUses = none ∧ (∀ r ∈ p.reads, parOk ((s.thr t).regP ((s.thr t).regNo r)) = true) ∧
      s.regsFree t p = true ∧ (s.thr t).mustSpill p = false ∧ (p.long = true → (s.thr t).noRoom p.writes = false) := by
  simp only [State.clear, Bool.and_eq_true, Bool.or_eq_true, Option.isNone_iff_eq_none, List.all_eq_true, Bool.not_eq_true']
  constructor
  · rintro ⟨⟨⟨⟨⟨⟨⟨⟨⟨⟨⟨a, b⟩, c⟩, d⟩, e⟩, f⟩, g⟩, h⟩, i⟩, j⟩, k⟩, l⟩
    refine ⟨a, b, c, d, e, f, fun hp => ?_, h, i, j, k, fun hp => ?_⟩
    · rcases g with g | g
      · simp [hp] at g
      · exact g
    · rcases l with l | l
      · simp [hp] at l
      · exact l
  · rintro ⟨a, b, c, d, e, f, g, h, i, j, k, l⟩
    refine ⟨⟨⟨⟨⟨⟨⟨⟨⟨⟨⟨a, b⟩, c⟩, d⟩, e⟩, f⟩, ?_⟩, h⟩, i⟩, j⟩, k⟩, ?_⟩
    · cases hp : p.sup
      · exact .inl rfl
      · exact .inr (g hp)
    · cases hp : p.long
      · exact .inl rfl
      · exact .inr (l hp)

/-- The register checks of an instruction whose conditions hold let it go on. -/
theorem State.issueRegs_go (s : State) (t : Nat) (i : Instr) (p : Pre) (hu : (s.thr t).badUse p.ctlUses = none)
    (hr : ∀ r ∈ p.reads, parOk ((s.thr t).regP ((s.thr t).regNo r)) = true)
    (hf : s.regsFree t p = true) (hm : (s.thr t).mustSpill p = false) (hl : p.long = true → (s.thr t).noRoom p.writes = false) :
    s.issueRegs t i p = .go s := by
  have h2 : ((p.reads.filter (fun r => !(if s.small then (s.thr t).pendingRegs else []).contains ((s.thr t).regNo r))).find?
      (fun r => !parOk ((s.thr t).regP ((s.thr t).regNo r)))) = none := by
    rw [List.find?_eq_none]
    intro r hr'
    simpa using hr r (List.mem_filter.1 hr').1
  have h3 : (p.reads.any (fun r => (if s.small then (s.thr t).pendingRegs else []).contains ((s.thr t).regNo r)) ||
      p.writes.any (fun r => (if s.small then (s.thr t).pendingRegs else []).contains ((s.thr t).regNo r)) ||
      p.regNos.any (if s.small then (s.thr t).pendingRegs else []).contains) = false := by
    unfold State.regsFree at hf
    by_cases hs : s.small = true
    · simp only [hs, if_true]
      simp [hs] at hf
      simp only [Bool.or_eq_false_iff, List.any_eq_false]
      refine ⟨⟨?_, ?_⟩, ?_⟩
      · intro r hr; simpa using hf.1.1 r hr
      · intro r hr; simpa using hf.1.2 r hr
      · intro n hn; simpa using hf.2 n hn
    · simp [hs]
  unfold State.issueRegs
  simp only [hu, h2, hm, Bool.false_and, Bool.false_eq_true, if_false, h3]
  rw [if_neg]
  simp only [Bool.and_eq_true, not_and, Bool.not_eq_true]
  exact hl

/-- The second word of an instruction whose words pass their checks. -/
theorem State.fetchBad_two (s : State) (th : Thread) (pc : Word) (h : s.fetchBad th pc 2 = none) :
    s.fetchBad th pc 1 = none ∧ s.fetchBad th (pc + 1) 1 = none := by
  unfold State.fetchBad at h ⊢
  simp only [List.findSome?_eq_none_iff, List.mem_range] at h ⊢
  refine ⟨fun i hi => h i (by omega), fun i hi => ?_⟩
  have := h 1 (by omega)
  have hi0 : i = 0 := by omega
  subst hi0
  simpa [wd] using this

/-- The issue of an instruction that is fetched and whose conditions hold lets it go on. -/
theorem State.issue_clear (s : State) (t : Nat) (i : Instr) (p : Pre) (h : s.clear t p = true) (hf : s.fetches t i = true)
    (hw : p.words = 1 ∨ p.words = 2) : s.issue t i p = .go (s.modThr t (fun th => th.fetched p.words)) := by
  obtain ⟨hs, hrep, hpc, hb, hfb, hi, hsup, hu, hr, hfr, hm, hl⟩ := (State.clear_iff s t p).1 h
  have hc : s.canIssue t = true ∧ (s.thr t).again = false := by
    unfold State.atSlot at hs
    unfold State.canIssue
    simp only [Bool.and_eq_true] at hs
    obtain ⟨⟨⟨⟨⟨⟨⟨⟨⟨h1, h2⟩, h3⟩, h4⟩, h5⟩, ho⟩, h6⟩, h7⟩, h8⟩, h9⟩ := hs
    refine ⟨?_, by simpa using h6⟩
    simp [h1, h2, h3, h4, h5, h7, h9, ho]
    right
    simpa using h8
  have hb' : (if (s.thr t).skipBreak then none else s.breakAt t (s.thr t).pc) = none := by
    split
    · rfl
    · simp_all
  have hfb1 : s.fetchBad (s.thr t) (s.thr t).pc 1 = none := by
    rcases hw with hw | hw
    · rwa [hw] at hfb
    · rw [hw] at hfb; exact (State.fetchBad_two s _ _ hfb).1
  unfold State.issue
  simp only [hc.1, not_true, if_false, hrep, hc.2, Bool.false_eq_true]
  unfold State.issueFetch
  simp only [hpc, hb', hfb1]
  rw [if_pos (by exact hf)]
  unfold State.issueDecode
  have hps : ((s.modThr t (fun th => { th with skipBreak := false }.slots 1)).thr t).badUse (if p.sup then [iPSW] else []) = none := by
    simp only [State.thr_modThr]
    cases hp : p.sup
    · rfl
    · exact (hsup hp).2
  simp only [hi, ite_self, hps]
  rw [if_neg (by
    simp only [State.thr_modThr, not_and, Classical.not_not]
    exact fun hp => (hsup hp).1)]
  have hgo (n : Nat) : (s.modThr t (fun th => th.fetched n)).issueRegs t i p = .go (s.modThr t (fun th => th.fetched n)) :=
    State.issueRegs_go _ t i p (by simpa using hu) (by simpa using hr) (by simpa [State.regsFree] using hfr) (by simpa using hm)
      (by simpa using hl)
  unfold State.issueSecond
  rcases hw with hw | hw
  · simp only [hw, ne_eq, show ¬ ((1 : Nat) = 2) by decide, not_false_eq_true, if_true]
    exact hgo 1
  · have h2 := (State.fetchBad_two s (s.thr t) (s.thr t).pc (by rw [← hw]; exact hfb)).2
    have h2' : (s.modThr t (fun th => { th with skipBreak := false }.slots 1)).fetchBad
        ((s.modThr t (fun th => { th with skipBreak := false }.slots 1)).thr t)
        (((s.modThr t (fun th => { th with skipBreak := false }.slots 1)).thr t).pc + 1) 1 = none := by
      simp only [State.thr_modThr]
      exact h2
    simp only [hw, ne_eq, not_true, if_false, h2', State.modThr_modThr]
    exact hgo 2

/-- An instruction that is fetched and whose conditions hold has its effect. -/
theorem issued_clear (s : State) (t : Nat) (i : Instr) (p : Pre) (k : State → State) (h : s.clear t p = true)
    (hf : s.fetches t i = true) (hw : p.words = 1 ∨ p.words = 2) :
    issued s t i p k = .next (k (s.modThr t (fun th => th.fetched p.words))) := by
  simp [issued, State.issue_clear s t i p h hf hw]

theorem State.clear_rep (s : State) (t : Nat) (p : Pre) (h : s.clear t p = true) : (s.thr t).rep = none :=
  ((State.clear_iff s t p).1 h).2.1

theorem State.clear_mustSpill (s : State) (t : Nat) (p : Pre) (h : s.clear t p = true) : (s.thr t).mustSpill p = false :=
  ((State.clear_iff s t p).1 h).2.2.2.2.2.2.2.2.2.2.1

theorem State.clear_runs (s : State) (t : Nat) (p : Pre) (h : s.clear t p = true) : s.runs = true := by
  have := ((State.clear_iff s t p).1 h).1
  simp only [State.atSlot, Bool.and_eq_true] at this
  simp [this]

/-- What issue reads of an instruction does not depend on its repetition and station kinds. -/
theorem State.clear_congr (s : State) (t : Nat) (p q : Pre) (h : s.clear t p = true)
    (h1 : p.words = q.words) (h2 : p.reads = q.reads) (h3 : p.writes = q.writes) (h4 : p.uses = q.uses) (h5 : p.sup = q.sup)
    (h6 : p.illegal = q.illegal) (h7 : p.spills = q.spills) (h8 : p.long = q.long) (h9 : p.regNos = q.regNos) :
    s.clear t q = true := by
  obtain ⟨w, r, wr, u, su, il, la, sp, al, lo, ta, rn⟩ := p
  obtain ⟨w', r', wr', u', su', il', la', sp', al', lo', ta', rn'⟩ := q
  simp only at h1 h2 h3 h4 h5 h6 h7 h8 h9
  subst h1 h2 h3 h4 h5 h6 h7 h8 h9
  exact h

/-- The step past an instruction outside a repetition. -/
theorem State.finish_of (s : State) (t n : Nat) (h : (s.thr t).rep = none) :
    s.finish t n = s.modThr t (fun th => th.onTo (th.pc + wd n)) := by
  unfold State.finish
  apply State.modThr_congr
  simp [h]

/-- An instruction that does not write the frame's window does not spill. -/
theorem State.spilling_of (s : State) (t : Nat) (p : Pre) (k : State → State) (h : (s.thr t).mustSpill p = false) :
    s.spilling t p k = k s := by
  simp [State.spilling, h]

@[simp] theorem State.spilling_fetched (s : State) (t n : Nat) (p : Pre) (k : State → State) (h : (s.thr t).mustSpill p = false) :
    (s.modThr t (fun th => th.fetched n)).spilling t p k = k (s.modThr t (fun th => th.fetched n)) :=
  State.spilling_of _ _ _ _ (by simpa using h)

/-- The registers written to a fetched thread. -/
theorem Thread.setRegs_fetched (n : Nat) : ∀ (l : List (Nat × Word)) (th : Thread), (th.fetched n).setRegs l = (th.setRegs l).fetched n
  | [], _ => rfl
  | e :: l, th => Thread.setRegs_fetched n l (th.setRegN e.1 e.2)

/-- A fetched thread that goes on past its words. -/
theorem Thread.onTo_fetched (th : Thread) (n : Nat) (pc : Word) : (th.fetched n).onTo pc = th.jump pc n := rfl

/-- The register file that writes leave depends on the register file alone. -/
theorem Thread.setRegs_regs : ∀ (l : List (Nat × Word)) (th th' : Thread), th.regs = th'.regs → (th.setRegs l).regs = (th'.setRegs l).regs
  | [], _, _, h => h
  | e :: l, th, th', h => Thread.setRegs_regs l (th.setRegN e.1 e.2) (th'.setRegN e.1 e.2) (by simp [Thread.setRegN, h])

/-- Writing registers changes the register file alone. -/
theorem Thread.setRegs_eq : ∀ (l : List (Nat × Word)) (th : Thread), th.setRegs l = { th with regs := (th.setRegs l).regs }
  | [], _ => rfl
  | e :: l, th => by rw [Thread.setRegs, Thread.setRegs_eq l]; rfl

/-- What `writes` keeps of a thread: it changes registers and pending operations. -/
theorem Thread.writes_eq (l : List (Nat × Word)) (th : Thread) :
    th.writes l = { th with regs := (th.setRegs l).regs, ops := (th.strike (l.map (·.1))).ops } := by
  unfold Thread.writes
  rw [Thread.setRegs_eq]
  rfl

/-- A retirement writes registers, marks them, and strikes what they write over from the multiplies and divides (R59): no other field
of the thread changes. -/
theorem Thread.retireRegs_eq (cyc : Nat) (o : LongOp) (ws : List (Nat × Word)) (th : Thread) :
    th.retireRegs cyc o ws =
      { th with
        regs := (th.retireRegs cyc o ws).regs, regBy := (th.retireRegs cyc o ws).regBy, ops := (th.retireRegs cyc o ws).ops } := by
  unfold Thread.retireRegs
  split <;> simp only [Thread.strike] <;> rw [Thread.setRegs_eq]

theorem Thread.writes_rep (l : List (Nat × Word)) (th : Thread) : (th.writes l).rep = th.rep := by rw [Thread.writes_eq]
theorem Thread.writes_pc (l : List (Nat × Word)) (th : Thread) : (th.writes l).pc = th.pc := by rw [Thread.writes_eq]; rfl

/-- An instruction that has written registers at the end of its `n` words and goes on past them. -/
theorem Thread.wrote_onTo (th : Thread) (l : List (Nat × Word)) (n : Nat) :
    ((th.fetched n).writes (l.map (fun e => (th.regNo e.1, e.2)))).onTo (((th.fetched n).writes (l.map (fun e => (th.regNo e.1, e.2)))).pc + wd n)
      = th.wrote l n := by
  unfold Thread.wrote Thread.wroteTo
  rw [Thread.writes_pc, Thread.writes_eq, Thread.writes_eq _ (th.left (n + 0)),
    Thread.setRegs_regs _ (th.fetched n) (th.left (n + 0)) rfl]
  rfl

/-- A register-to-register instruction that is fetched and whose conditions hold writes the results of its operation to its
destinations, in order, and changes nothing else (R62, R105 to R110). -/
theorem execAlu_clear (i : Instr) (t : Tid) (op : Alu) (srcs dests : List Reg) (words : Nat) (target : Bool) (s : State)
    (h : s.clear t (aluPre op (srcs.map (·.val)) (dests.map (·.val)) words target) = true) (hf : s.fetches t i = true)
    (hw : words = 1 ∨ words = 2) :
    execAlu i t op srcs dests words target s =
      s.did t ((dests.map (·.val)).zip (op.eval (srcs.map (fun r => (s.thr t).reg r.val)))) words := by
  have hm := State.clear_mustSpill _ _ _ h
  have hr := State.clear_rep _ _ _ h
  unfold execAlu
  simp only
  rw [issued_clear _ _ _ _ _ h hf hw]
  unfold State.aluRun
  rw [State.spilling_fetched _ _ _ _ _ hm]
  simp only [State.modThr_modThr, aluPre]
  rw [State.finish_of]
  · simp only [State.did, State.modThr_modThr]
    congr 1
    apply State.modThr_congr
    have h2 : ∀ (a : List Nat) (b : List Word) (f : Nat → Nat), (a.map f).zip b = (a.zip b).map (fun e => (f e.1, e.2)) := by
      intro a
      induction a with
      | nil => intro b f; simp
      | cons x a ih => intro b f; cases b <;> simp [ih]
    rw [h2]
    simp only [List.map_map]
    exact Thread.wrote_onTo _ _ _
  · simp [Thread.writes_rep, hr]

end Sys2Proof.Machine
end

