-- ==== Sys2Proof/Laws/Memory.lean ====
section
/-!
SUPPORT. The canonical form of local memory, the tiles and poison, and that every operation that writes them keeps it.
-/
namespace Sys2Proof.Machine

theorem Memory.wf_set (m : Tab ParWord) (a : Nat) (w : ParWord) (h : Memory.wf m = true) : Memory.wf (Tab.set pw0 m a w) = true :=
  Tab.wf_set pw0 m a w h

/-- Reset memory lists nothing. -/
theorem Memory.wf_reset : Memory.wf State.reset.mem = true := rfl

theorem State.canon_iff (s : State) :
    s.canon = true ↔ Memory.wf s.mem = true ∧ Tab.wf pw0 s.tiles = true ∧ Tab.wf false s.poison = true := by
  simp [State.canon, and_assoc]

/-- What leaves memory, tiles and poison alone keeps their form. -/
theorem State.canon_of_kept {s u : State} (hm : u.mem = s.mem) (ht : u.tiles = s.tiles) (hp : u.poison = s.poison)
    (h : s.canon = true) : u.canon = true := by
  rw [State.canon_iff] at h ⊢
  rwa [hm, ht, hp]

theorem State.mset_canon (s : State) (a : Nat) (w : Word) (h : s.canon = true) : (s.mset a w).canon = true := by
  rw [State.canon_iff] at h ⊢
  exact ⟨Memory.wf_set s.mem _ _ h.1, h.2⟩

theorem State.msetList_canon (ws : List Word) (s : State) (a : Nat) (h : s.canon = true) : (s.msetList a ws).canon = true := by
  induction ws generalizing s a with
  | nil => exact h
  | cons w ws ih => exact ih _ _ (s.mset_canon a w h)

theorem State.tset_canon (s : State) (p i : Nat) (w : Word) (h : s.canon = true) : (s.tset p i w).canon = true := by
  rw [State.canon_iff] at h ⊢
  exact ⟨h.1, Tab.wf_set pw0 s.tiles _ _ h.2.1, h.2.2⟩

theorem State.tsetList_canon (ws : List Word) (s : State) (p i : Nat) (h : s.canon = true) : (s.tsetList p i ws).canon = true := by
  induction ws generalizing s i with
  | nil => exact h
  | cons w ws ih => exact ih _ _ (s.tset_canon p i w h)

theorem State.setPoison_canon (s : State) (p : Nat) (b : Bool) (h : s.canon = true) : (s.setPoison p b).canon = true := by
  rw [State.canon_iff] at h ⊢
  exact ⟨h.1, h.2.1, Tab.wf_set false s.poison p b h.2.2⟩

theorem State.clearTile_canon (s : State) (p : Nat) (h : s.canon = true) : (s.clearTile p).canon = true := by
  rw [State.canon_iff] at h ⊢
  exact ⟨h.1, Tab.wf_filter pw0 s.tiles _ h.2.1, Tab.wf_del false s.poison p h.2.2⟩

/-- A fold of operations that keep the form keeps it. -/
theorem State.foldl_canon {α : Type} (l : List α) (g : State → α → State) (s : State)
    (hg : ∀ s x, s.canon = true → (g s x).canon = true) (h : s.canon = true) : (l.foldl g s).canon = true := by
  induction l generalizing s with
  | nil => exact h
  | cons x l ih => exact ih _ (hg s x h)

theorem State.fell_canon (s : State) (t : Nat) (reason : BitVec 8) (pc psw cause fpc faddr : Word) (h : s.canon = true) :
    (s.fell t reason pc psw cause fpc faddr).canon = true :=
  State.canon_of_kept (by simp) (by simp) (by simp) h

theorem State.modThr_canon (s : State) (t : Nat) (f : Thread → Thread) (h : s.canon = true) : (s.modThr t f).canon = true :=
  State.canon_of_kept (by simp) (by simp) (by simp) h

theorem State.spillL_canon (s : State) (t : Nat) (h : s.canon = true) : (s.spillL t).canon = true := by
  unfold State.spillL
  dsimp only
  split
  · exact State.canon_of_kept (by simp) (by simp) (by simp) h
  · exact State.modThr_canon _ _ _ (State.msetList_canon _ _ _ h)

theorem State.spillShapes_canon (s : State) (t : Nat) (h : s.canon = true) : (s.spillShapes t).canon = true := by
  unfold State.spillShapes
  dsimp only
  split
  · exact State.canon_of_kept (by simp) (by simp) (by simp) h
  · exact State.modThr_canon _ _ _ (State.msetList_canon _ _ _ h)

theorem State.stopTile_canon (s : State) (o : TileOp) (h : s.canon = true) : (s.stopTile o).canon = true := by
  have h1 : (s.offEngine o.id).canon = true := State.canon_of_kept (by simp) (by simp) (by simp) h
  have h2 : (if o.kind = .tst then (s.offEngine o.id).msetList o.slot [0xFFFF, 0xFFFF] else s.offEngine o.id).canon = true := by
    split
    · exact State.msetList_canon _ _ _ h1
    · exact h1
  unfold State.stopTile
  dsimp only
  split
  · exact State.canon_of_kept (by simp) (by simp) (by simp) (State.setPoison_canon _ o.tile true h2)
  · exact State.canon_of_kept (by simp) (by simp) (by simp) h2

theorem State.enter_canon (s : State) (t : Nat) (d : Delivery) (h : s.canon = true) : (s.enter t d).canon = true := by
  unfold State.enter
  extract_lets d0 s1 s2 th fell
  have h2 : s2.canon = true := by
    refine State.modThr_canon _ _ _ ?_
    show s1.canon = true
    dsimp only [s1]
    split
    · exact State.canon_of_kept (by simp) (by simp) (by simp) h
    · exact h
  split
  · exact State.fell_canon _ _ _ _ _ _ _ _ h2
  · split
    · exact State.fell_canon _ _ _ _ _ _ _ _ h2
    · exact State.modThr_canon _ _ _ (State.msetList_canon _ _ _ h2)

end Sys2Proof.Machine
end

