-- ==== Sys2Proof/Tests/Slice0.lean ====
section
/-!
SUPPORT. Tests: what is not well formed is turned away; one step of some commands on a small state, with results from the manual's
worked examples and rules; and for each statement with hypotheses a state and operands that meet them.
-/
namespace Sys2Proof.Tests
-- One theorem after the other: a hundred of them at once would hold a thread each.
set_option Elab.async false
open Sys2Proof.Machine

/-! ## A small state: one running thread in a compartment of granules 0 to 63, with four tiles and an array share -/

/-- Configuration: compartment 0 (granules 0x00 to 0x3F, R, W and X, world and tag 0x02C1), an array share, tiles 0 to 3. -/
def cfg0 : Tab Word := [(0, 0x3F00), (1, 0xE2C1), (0x0300, 4), (0x0301, 0x0040), (0x0600, 0x0040), (0x0601, 0x0040), (0x0602, 0x0040),
  (0x0603, 0x0040)]

/-- Thread 0: RUNNING at 0x0100, stack at 0x3000, tile view 0 to 3. -/
def th0 : Thread := { (((((Thread.init.setWt 0x02C1).setCtl 0x06 0x3000).setBoth 0x07 0x2000).setBoth 0x08 0x0040).setBoth 0x0F 0x3210).setPc 0x0100 with
  st := .running }

def s0 : State := { State.reset with pins := ⟨true, true, true⟩, core := .running, ready := 0x03FF, cfg := cfg0, threads := [(0, th0)] }

/-- The small state with its thread changed. -/
def wth (f : Thread → Thread) : State := s0.modThr 0 f

/-- The state after a command. -/
def after (c : Instr) (s : State) : State :=
  match exec c s with
  | .next u => u
  | _ => s

/-- The state with two words at the thread's PC. -/
def sp (w v : Word) (s : State) : State := s.msetList 0x0100 [w, v]

/-- Each pair of words, at the PC, spells its instruction, which executes without a fault or a wait. -/
def ok (s : State) (l : List (Word × Word × Instr × Pre)) : Bool :=
  l.all (fun e => (sp e.1 e.2.1 s).clear 0 e.2.2.2 && (sp e.1 e.2.1 s).fetches 0 e.2.2.1)

/-! ## Well-formedness (R29, R155, R368, R402) -/

theorem test_wf_frs : (Instr.frs 0 0 (List.replicate 64 0)).wf = false := by decide
theorem test_wf_farWriteBlockIn : (Instr.farWriteBlockIn 0 0 0 0 0 (List.replicate 58 0)).wf = false := by decide
theorem test_wf_farWriteIn : (Instr.farWriteIn 0 0 0 0 (List.replicate 58 0)).wf = false := by decide
theorem test_wf_movWrite : (Instr.movWrite 0 0 0 0 (List.replicate 58 0)).wf = false := by decide
theorem test_wf_movData : (Instr.movData 0 0 (List.replicate 58 0)).wf = false := by decide
theorem test_wf_flmMsg_empty : (Instr.flmMsg 0 0 0 0 0 []).wf = false := by decide
theorem test_wf_flmMsg_long : (Instr.flmMsg 0 0 0 0 0 (List.replicate 17 0)).wf = false := by decide
theorem test_wf_flmMsg : (Instr.flmMsg 0 0 0 0 0 [1]).wf = true := by decide
/-- R33: a packet of more than 64 words is discarded and counted; R370: a message of no word to an UNBOUND end is discarded and counted. -/
theorem test_out_of_form : Tab.get 0 (after (.frs 0 0 (List.replicate 64 0)) s0).tally 0x2B = 1 ∧
    Tab.get 0 (after (.flmMsg 0 0 0 0 0 []) s0).tally 0x20 = 1 := by decide +kernel
/-- R33, R447: before READY.ATP a REPLY is discarded without a count, and a packet with a foreign destination is counted. -/
theorem test_discard_uncounted :
    let s : State := { s0 with ready := 0 }
    (after (.packetDiscard [0x0045, 0, 0, 0, 0x0100, 0, 0, 0]) s).tally = [] ∧
      Tab.get 0 (after (.packetDiscard [0x0045, 1, 0, 0, 0x0100, 0, 0, 0]) s).tally 0x2B = 1 := by decide +kernel

/-! ## Single steps, with the manual's values -/

/-- R110's example: with rd = 5, rs = 3 and rc = 0, SBC writes 2 and 0. -/
theorem test_sbc : let u := after (.sbc 0 0 1 4) (sp 0xF901 0x0014 (wth (fun th => th.setRegs [(0, 5), (1, 3)])))
    ((u.thr 0).reg 0, (u.thr 0).reg 4) = (2, 0) := by decide +kernel
/-- R110's worked addition: 0xFFFF + 3 is 2 with carry 1. -/
theorem test_adc : let u := after (.adc 0 0 2 4) (sp 0xF900 0x0024 (wth (fun th => th.setRegs [(0, 0xFFFF), (2, 3)])))
    ((u.thr 0).reg 0, (u.thr 0).reg 4, (u.thr 0).pc) = (2, 1, 0x0102) := by decide +kernel
/-- R110: a carry register that is the destination ends with the carry. -/
theorem test_adc_same : ((after (.adc 0 0 2 0) (sp 0xF900 0x0020 (wth (fun th => th.setRegs [(0, 0xFFFF), (2, 3)])))).thr 0).reg 0 = 1 := by
  decide +kernel
/-- R107: 0x8000 divided by 0xFFFF is 0x8000. -/
theorem test_div : (((after (.div 0 0 1 2) (sp 0x8012 0 (wth (fun th => th.setRegs [(1, 0x8000), (2, 0xFFFF)])))).thr 0).ops.map (·.res)) =
    [[0x8000]] := by decide +kernel
/-- R60: a zero divisor takes DIV_ZERO. -/
theorem test_div_zero : ((after (.div 0 0 1 2) (sp 0x8012 0 s0)).thr 0).sync.map (·.code) = some 0x09 := by decide +kernel
/-- R109: the short offset is sign-extended and counts from the next word. -/
theorem test_bz_back : ((after (.bz 0 0 0x40) (sp 0x9040 0 s0)).thr 0).pc = 0x00C1 := by decide +kernel
/-- R112: a load whose destination is its base ends with the loaded value. -/
theorem test_ld_base : ((after (.ld 0 1 (.postInc 1)) (sp 0xB111 0 ((wth (fun th => th.setReg 1 0x0200)).mset 0x0200 0xBEEF))).thr 0).reg 1 =
    0xBEEF := by decide +kernel
/-- R112: a store through its own base stores the value before the update. -/
theorem test_st_base : ((after (.st 0 1 (.preDec 1)) (sp 0xBA11 0 (wth (fun th => th.setReg 1 0x0200)))).mget 0x01FF).d = 0x0200 := by
  decide +kernel
/-- R146: a load outside the compartment faults, with the address. -/
theorem test_ld_denied : ((after (.ld 0 0 (.ind 1)) (sp 0xB001 0 (wth (fun th => th.setReg 1 0x4000)))).thr 0).sync.map
    (fun i => (i.code, i.faddr)) = some (0x03, 0x4000) := by decide +kernel
/-- R77: the return address is the word after the CALL, in L7 of the new window. -/
theorem test_call : let th := (after (.call 0 0x0200) (sp 0xF601 0x0200 s0)).thr 0
    (th.pc, th.wp, th.reg 15) = (0x0200, 1, 0x0102) := by decide +kernel
/-- The model's condition (log entry 3): an instruction that the words at PC do not spell does nothing. -/
theorem test_not_spelled : exec (.nop 0) (sp 0x0123 0 s0) = .next (sp 0x0123 0 s0) := by rfl
/-- R52: a word changed by a store is fetched as stored, and R103: a nonzero field that must be zero is an undefined encoding. -/
theorem test_undefined : ((after (.undefinedEncoding 0) (sp 0xFA01 0 s0)).thr 0).sync.map (fun i => (i.code, i.aux)) = some (0x01, 0x01) := by
  decide +kernel
/-- R425: vector 1 of EVB for a synchronous fault. -/
theorem test_entry_vector : ((after (.exceptionEntry 0) (wth (fun th => { th.setCtl 0x01 0x0001 with sync := some (item 0x09 0 0x0100 0) }))).thr 0).pc =
    0x0044 := by decide +kernel
/-- R241: the sums of the words 1 and 2 are 3 and 4. -/
theorem test_fletcher : [(1 : Word), 2].foldl fletcher (0, 0) = (3, 4) := by decide +kernel
/-- R43: nothing issues before the thread runs. -/
theorem test_not_running : exec (.nop 1) s0 = .next s0 := by rfl
/-- R449: LOAD_BEGIN of a RUNNING core is REFUSED_STATE. -/
theorem test_load_refused : ((after .loadBegin { s0 with atpQ := [⟨0x028007, [0x10, 1, 2, 0]⟩] }).gpOut.map (·.payload)) =
    [[0x0110, 1, 2, 0x0101, 4]] := by decide +kernel
/-- R27: the words shifted in are the identifier, low word first, and the trim set. -/
theorem test_trim_si : (after (.rstColdNAssert [0xBB5E, 0x0002, 0x0123, 0, 0, 8, 0, 0, 0, 0]) s0).ident = 0x02BB5E := by decide +kernel


/-! ## Witnesses: states and operands that meet the hypotheses of the statements; the words are written from the manual's encodings -/

theorem witness_StepRunsFront : ({ s0 with pending := [.nop 0] } : State).pending = .nop 0 :: [] ∧ s0.pending = [] := by decide
theorem witness_WellFormedAnswers :
    63 < (List.replicate 64 (0 : Word)).length ∧ 57 < (List.replicate 58 (0 : Word)).length ∧ 62 < (List.replicate 63 (0 : Word)).length ∧
      64 < (List.replicate 65 (0 : Word)).length ∧ s0.live = true ∧ State.reset.live = false := by decide
theorem witness_StepKeeps :
    ({ s0 with pending := [.memWrite], mem := [(3, pw 7)] } : State).canon = true ∧ ({ s0 with pending := [.memWrite] } : State).bounded = true ∧
      ∃ u, step { s0 with pending := [.memWrite], mem := [(3, pw 7)] } = .next u :=
  ⟨by decide, by decide, _, rfl⟩
theorem witness_RegisterInstructionsFrame :
    ∃ u, exec (.add 0 1 2 3) (sp 0x0123 0 s0) = .next u ∧ (u.thr 0).st ≠ .felled ∧ (u.thr 0).pc = 0x0101 := ⟨_, rfl, by decide, by decide⟩

/-- R101, R105: format A, [15:12] the operation, then rd, ra and rb. -/
theorem witness_FormatAResults :
    let p : Pre := { reads := [2, 3], writes := [15] }
    ok s0 [(0x0F23, 0, .add 0 15 2 3, p), (0x1F23, 0, .sub 0 15 2 3, p), (0x2F23, 0, .seq 0 15 2 3, p), (0x3F23, 0, .sne 0 15 2 3, p),
      (0x4F23, 0, .slt 0 15 2 3, p), (0x5F23, 0, .sltu 0 15 2 3, p), (0x6F23, 0, .sle 0 15 2 3, p), (0x7F23, 0, .sleu 0 15 2 3, p)] = true := by
  decide +kernel
/-- R101, R106: format D, 0xA, rd, rs and the operation in [3:0]. -/
theorem witness_FormatDResults :
    let p : Pre := { reads := [3], writes := [1] }
    let q : Pre := { reads := [1, 3], writes := [1] }
    ok s0 [(0xA130, 0, .mov 0 1 3, p), (0xA138, 0, .not 0 1 3, p), (0xA139, 0, .neg 0 1 3, p), (0xA131, 0, .and 0 1 3, q),
      (0xA132, 0, .or 0 1 3, q), (0xA133, 0, .xor 0 1 3, q), (0xA134, 0, .shl 0 1 3, q), (0xA135, 0, .shr 0 1 3, q),
      (0xA136, 0, .sra 0 1 3, q), (0xA137, 0, .rol 0 1 3, q)] = true := by decide +kernel
/-- R102, R108: format S, sub 0x0 to 0x5. -/
theorem witness_ImmediateResults :
    let p : Pre := { reads := [1], writes := [1] }
    let q : Pre := { words := 2, reads := [1], writes := [1] }
    ok s0 [(0xF01F, 0, .addi 0 1 15, p), (0xF11F, 0, .shli 0 1 15, p), (0xF21F, 0, .shri 0 1 15, p), (0xF31F, 0, .srai 0 1 15, p),
      (0xF410, 0, .zxb 0 1, p), (0xF411, 0, .sxb 0 1, p), (0xF412, 0, .zxn 0 1, p), (0xF413, 0, .sxn 0 1, p), (0xF414, 0, .swb 0 1, p),
      (0xF510, 0x8001, .movImm 0 1 0x8001, { words := 2, writes := [1] }), (0xF511, 0x8001, .addImm 0 1 0x8001, q),
      (0xF512, 0x8001, .andImm 0 1 0x8001, q), (0xF513, 0x8001, .orImm 0 1 0x8001, q), (0xF514, 0x8001, .xorImm 0 1 0x8001, q),
      (0xF515, 0x8001, .seqImm 0 1 0x8001, q), (0xF516, 0x8001, .sltImm 0 1 0x8001, q), (0xF517, 0x8001, .sltuImm 0 1 0x8001, q)] = true := by
  decide +kernel
/-- R110: sub 0x9; the destination is the carry register. -/
theorem witness_CarryResults :
    let p : Pre := { words := 2, reads := [0, 1, 0], writes := [0, 0] }
    ok s0 [(0xF900, 0x0010, .adc 0 0 1 0, p), (0xF901, 0x0010, .sbc 0 0 1 0, p)] = true := by decide +kernel
theorem witness_MulDivHandOff :
    let p : Pre := { reads := [1, 3], writes := [1], long := true }
    let q : Pre := { reads := [14, 3], writes := [14, 15], long := true }
    ok s0 [(0x8123, 0, .div 0 1 2 3, { reads := [2, 3], writes := [1], long := true }), (0xA13C, 0, .divu 0 1 3, p), (0xA13D, 0, .rem 0 1 3, p),
      (0xA13E, 0, .remu 0 1 3, p), (0xAE3A, 0, .mul 0 14 3, q), (0xAE3B, 0, .mulu 0 14 3, q)] = true := by decide +kernel
def opMul : LongOp := ⟨7, 1, 0x0100, [2, 3], [5, 6], false, 2, false⟩
/-- Two multiplies, the second due a slot after the first, with the thread's slot count between them; thread 1 may not issue. -/
def sMul : State := wth (fun th => { th with ops := [opMul, { opMul with id := 8, due := 3 }], slotNo := 2 })
theorem witness_MulDivRetire :
    sMul.runs = true ∧ ((sMul.thr 0).ops.filter (fun o => o.cls = 1))[0]? = some opMul ∧
      (∀ q ∈ (sMul.thr 0).ops, q.id = opMul.id → q = opMul) ∧
      (∀ q ∈ (sMul.thr 0).ops, q.cls = 1 → opMul.due < q.due ∨ (q.due = opMul.due ∧ opMul.id ≤ q.id)) ∧ opMul.due ≤ (sMul.thr 0).slotNo ∧
      ((sMul.modThr 0 (fun th => { th with slotNo := 1 })).thr 0).slotNo < opMul.due ∧
      (sMul.modThr 0 (fun th => { th with slotNo := 1 })).slotsIdle 0 = false ∧
      (sMul.modThr 0 (fun th => th.parked (.wait 0) (.wait 0 0) 1)).slotsIdle 0 = true := by decide +kernel
theorem witness_BranchTargets :
    let p : Pre := { reads := [15] }
    let q : Pre := { words := 2, reads := [15] }
    ok s0 [(0x9F40, 0, .bz 0 15 0x40, p), (0x9FC0, 0, .bnz 0 15 0x40, p), (0xF6F2, 0, .jmpReg 0 15, p), (0xF6F6, 0x0200, .bzL 0 15 0x0200, q),
      (0xF6F7, 0x0200, .bnzL 0 15 0x0200, q), (0xF600, 0x0200, .jmp 0 0x0200, { words := 2 })] = true := by decide +kernel
def atWp (w : Word) : State := wth (fun th => th.setCtl 0x0C w)
theorem witness_CallsAndReturns :
    ((atWp 2).thr 0).wp = 2 ∧ ok (atWp 2) [(0xF601, 0x0200, .call 0 0x0200, { words := 2, uses := [0x0C], regNos := [39] }),
        (0xF683, 0, .callReg 0 8, { reads := [8], uses := [0x0C], regNos := [39] })] = true ∧
      ((atWp 1).thr 0).wp = 1 ∧ ok (atWp 1) [(0xF604, 0, .ret 0, { reads := [15], uses := [0x0C] })] = true ∧
      ((atWp 3).thr 0).wp = 3 ∧ ok (atWp 3) [(0xF601, 0x0200, .call 0 0x0200, { words := 2, uses := [0x0C], regNos := [47] }),
        (0xF683, 0, .callReg 0 8, { reads := [8], uses := [0x0C], regNos := [47] })] = true ∧
      (s0.thr 0).wp = 0 ∧ ok s0 [(0xF604, 0, .ret 0, { reads := [15], uses := [0x0C] })] = true := by decide +kernel
/-- The last address of the compartment. -/
def sLd : State := wth (fun th => th.setRegs [(1, 0x3FFE), (15, 0x3FFE)])
/-- R101, R111: format M (0xB, store, pair, form, register, base) and format X (0xC and 0xD). -/
theorem witness_LoadsAndStores :
    ok sLd [(0xB001, 0, .ld 0 0 (.ind 1), loadPre 1 0 (.ind 1)), (0xB111, 0, .ld 0 1 (.postInc 1), loadPre 1 1 (.postInc 1)),
        (0xB201, 0, .ld 0 0 (.preDec 1), loadPre 1 0 (.preDec 1)), (0xB301, 0x0000, .ld 0 0 (.off 1 0), loadPre 1 0 (.off 1 0)),
        (0xB401, 0, .ldP 0 0 (.ind 1), loadPre 2 0 (.ind 1)), (0xC0E0, 0, .ldX 0 0 7 0 0, { reads := [15, 0], writes := [0] }),
        (0xBB01, 0x0000, .st 0 0 (.off 1 0), storePre 1 0 (.off 1 0)), (0xBD01, 0, .stP 0 0 (.postInc 1), storePre 2 0 (.postInc 1)),
        (0xD0E0, 0, .stX 0 0 7 0 0, { reads := [0, 15, 0] })] = true ∧
      sLd.accessOk 0 0x3FFE 1 false = true ∧ sLd.accessOk 0 0x3FFD 1 false = true ∧ sLd.accessOk 0 0x3FFE 2 false = true ∧
      sLd.accessOk 0 0x3FFE 1 true = true ∧ sLd.accessOk 0 0x3FFE 2 true = true ∧ parOk (sLd.mget 0x3FFE) = true ∧
      parOk (sLd.mget 0x3FFF) = true := by decide +kernel
/-- A base in a register, and the word at 0x0200 with failing parity. -/
def sBase (a : Word) : State := { wth (fun th => th.setRegs [(1, a), (15, a)]) with mem := [(0x0200, ⟨1, false⟩)] }
/-- R51, R113, R150: the last word of the compartment is readable and the next is not; an odd pair address; a word with failing parity. -/
theorem witness_LoadsAndStores_faults :
    [(0x4000 : Word), 0x3FFF, 0x0200].all (fun a =>
      ok (sBase a) [(0xB001, 0, .ld 0 0 (.ind 1), loadPre 1 0 (.ind 1)), (0xB401, 0, .ldP 0 0 (.ind 1), loadPre 2 0 (.ind 1)),
        (0xB801, 0, .st 0 0 (.ind 1), storePre 1 0 (.ind 1)), (0xBC01, 0, .stP 0 0 (.ind 1), storePre 2 0 (.ind 1)),
        (0xC0E0, 0, .ldX 0 0 7 0 0, { reads := [15, 0], writes := [0] }), (0xD0E0, 0, .stX 0 0 7 0 0, { reads := [0, 15, 0] })] &&
      parOk (((sBase a).thr 0).ctlP 0x2B)) = true := by decide +kernel
theorem witness_LoadsAndStores_words :
    let s := sBase 0x0200
    let r : State := { s with mem := [(0x0201, ⟨1, false⟩)] }
    (s.cmp 0x02C1 0x4000 .r).isSome = true ∧ (s.cmp 0x02C1 0x4000 .w).isSome = true ∧ (s.cmp 0x02C1 0x3FFF .r).isSome = false ∧
      s.accessOk 0 0x0200 1 false = true ∧ s.accessOk 0 0x0200 2 false = true ∧ parOk (s.mget 0x0200) = false ∧
      parOk (r.mget 0x0200) = true ∧ parOk (r.mget 0x0201) = false := by decide +kernel
/-- R114: the REP prefixes. -/
theorem witness_RepStarts :
    ok s0 [(0xF708, 0, .repN 0 8, { uses := [0x0B] }), (0xF741, 0, .repN 0 65, { uses := [0x0B] }),
      (0xF781, 0, .repI 0 1, { reads := [1], uses := [0x0B] }), (0xF790, 0x0000, .repIImm 0 0, { words := 2, uses := [0x0B] }),
      (0xF790, 0xFFFF, .repIImm 0 0xFFFF, { words := 2, uses := [0x0B] })] = true := by decide +kernel
/-- Thread 0 after a REP.N prefix of 2 repetitions, with a target word after it. -/
def sRep (w : Word) (i : Option Instr) : State :=
  (wth (fun th => { (th.setCtl 0x0B 2).setRegs [(1, 0x3FFE), (15, 0x3FFE)] with rep := some ⟨false, 0x0100, 0x0101, i⟩ })).mset 0x0101 w
/-- The registers of a target are readable and free. -/
def repRegs (s : State) (l w : List Nat) : Bool :=
  ((s.thr 0).badUse (if (l ++ w).any (fun r => 8 ≤ r) then [0x0C] else [])).isNone &&
    l.all (fun q => parOk ((s.thr 0).regP ((s.thr 0).regNo q))) && s.regsFree 0 { reads := l, writes := w } &&
    !(s.thr 0).mustSpill { writes := w }
theorem witness_RepetitionCounts :
    ∀ e ∈ ([(0x0123, .add 0 1 2 3, [2, 3], [1]), (0xA132, .or 0 1 3, [1, 3], [1]), (0xF01F, .addi 0 1 15, [1], [1]),
        (0xB111, .ld 0 1 (.postInc 1), (loadPre 1 1 (.postInc 1)).reads, (loadPre 1 1 (.postInc 1)).writes),
        (0xB4E1, .ldP 0 14 (.ind 1), (loadPre 2 14 (.ind 1)).reads, (loadPre 2 14 (.ind 1)).writes),
        (0xBA11, .st 0 1 (.preDec 1), (storePre 1 1 (.preDec 1)).reads, (storePre 1 1 (.preDec 1)).writes),
        (0xBCE1, .stP 0 14 (.ind 1), (storePre 2 14 (.ind 1)).reads, (storePre 2 14 (.ind 1)).writes),
        (0xC0E0, .ldX 0 0 7 0 0, [15, 0], [0]), (0xD0E0, .stX 0 0 7 0 0, [0, 15, 0], [])] : List (Word × Instr × List Nat × List Nat)),
      let s := sRep e.1 none
      s.canIssue 0 = true ∧ (sRep e.1 (some e.2.1)).canIssue 0 = true ∧ (s.thr 0).rep = some ⟨false, 0x0100, 0x0101, none⟩ ∧
        s.spells 0 0x0101 e.2.1 = true ∧ ((s.thr 0).badUse [0x00, 0x2B]).isNone = true ∧ (s.breakAt 0 0x0101).isNone = true ∧
        (s.fetchBad (s.thr 0) 0x0101 1).isNone = true ∧ repRegs s e.2.2.1 e.2.2.2 = true ∧ s.accessOk 0 0x3FFE 2 true = true ∧
        s.accessOk 0 0x3FFE 2 false = true ∧ s.accessOk 0 0x3FFD 1 true = true ∧ parOk (s.mget 0x3FFE) = true := by decide +kernel
/-- A handler with nothing spilled, at a stack pointer and with an instruction's words. -/
def sHandler (ssp w v : Word) : State := sp w v (wth (fun th => { (th.setCtl 0x06 ssp).setReg 1 0x3FFE with lfill := false }))
theorem witness_FirstLocalWriteSpills :
    ∀ e ∈ ([(0xF5F0, 7, .movImm 0 15 7), (0xB1F1, 0, .ld 0 15 (.postInc 1)), (0x8F21, 0, .div 0 15 2 1),
        (0xE0BF, 0, .mfc 0 15 0x0B)] : List (Word × Word × Instr)),
      let s := sHandler 0x3000 e.1 e.2.1
      (s.thr 0).lfill = false ∧ (s.thr 0).rep = none ∧ (s.thr 0).ops = [] ∧ (s.thr 0).held = [] ∧ parOk ((s.thr 0).ctlP 0x06) = true ∧
        (∀ k < 8, parOk ((s.thr 0).regP ((s.thr 0).regNo (8 + k))) = true) ∧
        (s.firstBad (s.thr 0).wt (0x3000 + 12) 16 .w).isNone = true ∧
        ((after e.2.2 ((s.msetList 0x300C ((List.range 8).map (fun k => (s.thr 0).reg (8 + k)))).modThr 0 (fun th =>
          { th with slotNo := th.slotNo + 4, lfill := true }))).thr 0).pc ≠ (s.thr 0).pc ∧
        ((sHandler 0x3FF8 e.1 e.2.1).firstBad (s.thr 0).wt (0x3FF8 + 12) 16 .w).isSome = true ∧
        ((after e.2.2 ((sHandler 0x3FF8 e.1 e.2.1).modThr 0 (fun th => { th with lfill := true }))).thr 0).pc ≠ 0x0100 := by decide +kernel

/-! ### The far path -/

/-- External base 0 with the given words. -/
def xb (w0 w1 w2 : Word) : State := wth (fun th => ((th.setBoth 0x14 w0).setBoth 0x15 w1).setBoth 0x16 w2)
def sFar : State := xb 0x0100 0x2803 0x0030
def aFar : FarAddr := (sFar.thr 0).farAddr 0 0xFFFE
def lineFar : Line := ⟨farBlock aFar, 0x02C1, true, List.replicate 16 (pw 9)⟩
def oFar (w : FarWait) : FarOp := ⟨4, 0, 0x0100, 0x02C1, aFar, 0xFFFE, false, [], [1], [], w⟩
def opFar : LongOp := ⟨4, 2, 0x0100, [1], [], false, 0, false⟩
def mFar : MergeEntry := ⟨farBlock aFar, 0x02C1, [(3, pw 5)], [0], [4], 32, true⟩
def farPre (reads writes : List Nat) (long : Bool) : Pre := { words := 2, reads := reads, writes := writes, uses := [0x14, 0x15, 0x16], long := long }

/-- R122: sub 0x8, [7] store, [6] pair, [5:4] the base, [3:0] the register. -/
theorem witness_FarHandOffs_issue :
    ok sFar [(0xF801, 0xFFFE, .ldf 0 0 1 0xFFFE, farPre [] [1] true), (0xF84E, 0xFFFE, .ldfP 0 0 14 0xFFFE, farPre [] [14, 15] true),
        (0xF881, 0xFFFE, .stf 0 0 1 0xFFFE, farPre [1] [] true), (0xF8CE, 0xFFFE, .stfP 0 0 14 0xFFFE, farPre [14, 15] [] true)] = true ∧
      bit ((sFar.thr 0).useW 0x16) 4 = true ∧ bit ((sFar.thr 0).useW 0x16) 5 = true ∧ sFar.farFull = false := by decide +kernel
theorem witness_FarHandOffs_place :
    farDst aFar ≠ none ∧ bit ((sFar.thr 0).useW 0x16) 6 = false ∧ worldCached sFar.cfg 0x02C1 = true ∧ sFar.evict = none ∧
      Tab.find sFar.lines (lineIdx sFar.cfg 0x02C1 (farBlock aFar)) = none ∧ lineFar.bad (oFar .sent) = false ∧
      bit (((xb 0x0100 0x2803 0x0070).thr 0).useW 0x16) 6 = true ∧ farDst (((xb 0xFFFF 0x0400 0x0031).thr 0).farAddr 0 0) = none ∧
      joinFirst (oFar .sent) (fun m => !sFar.parted (oFar .sent) m) [mFar] ≠ none ∧
      joinFirst (oFar .sent) (fun m => !sFar.parted (oFar .sent) m) sFar.merge = none ∧ sFar.merge.length < 4 := by decide +kernel
theorem witness_FarHandOffs_denied :
    let s := xb 0x0100 0x2803 0
    ok s [(0xF801, 0xFFFE, .ldf 0 0 1 0xFFFE, farPre [] [1] false), (0xF84E, 0xFFFE, .ldfP 0 0 14 0xFFFE, farPre [] [14, 15] false),
        (0xF881, 0xFFFE, .stf 0 0 1 0xFFFE, farPre [1] [] false), (0xF8CE, 0xFFFE, .stfP 0 0 14 0xFFFE, farPre [14, 15] [] false)] = true ∧
      bit ((s.thr 0).useW 0x16) 4 = false ∧ bit ((s.thr 0).useW 0x16) 5 = false ∧
      ok sFar [(0xF84E, 0x0001, .ldfP 0 0 14 1, farPre [] [14, 15] false), (0xF8CE, 0x0001, .stfP 0 0 14 1, farPre [14, 15] [] false)] = true := by
  decide +kernel
def sMiss : State := { sFar with farOps := [oFar .miss] }
def sUnc : State := { sFar with farOps := [oFar .uncached] }
def sMrg : State := { sFar with merge := [mFar] }
theorem witness_FarRequestsLeave :
    sMiss.runs = true ∧ sMiss.freeTag = some 0 ∧ sMiss.missBusy = false ∧
      sMiss.farOps.find? (fun o => o.wait = .miss) = some (oFar .miss) ∧ sMiss.farBehind (oFar .miss) = false ∧
      (farDst (blockAddr (oFar .miss).block)).isSome = true ∧
      sUnc.farOps.find? (fun o => decide (o.wait = .uncached) && !sUnc.farBehind o) = some (oFar .uncached) ∧
      (farDst aFar).isSome = true ∧
      sMrg.merge[0]? = some mFar ∧ sMrg.mergeDue 0 mFar = true ∧ sMrg.mergeHeld mFar = false ∧
      (∀ w ∈ mFar.words, parOk w.2 = true) ∧ sMrg.farOps = [] ∧
      ({ sMrg with farOps := [oFar .merge] } : State).mergeDue 0 mFar = true ∧
      ({ sMrg with farOps := [oFar .merge] } : State).farOps.filter (fun o => o.wait = .merge) = [oFar .merge] := by decide +kernel
def sSent : State :=
  { wth (fun th => { th with ops := [opFar] }) with farOps := [oFar .sent], tags := [(15, .op 4)] }
theorem witness_FarAnswers :
    sSent.runs = true ∧ [(7 : Word)].length ≤ 63 ∧ sSent.ahead = none ∧ Tab.find sSent.tags 15 = some (.op 4) ∧
      sSent.farOps.find? (fun q => q.id = 4) = some (oFar .sent) ∧ (sSent.thr 0).ops.find? (fun q => q.id = 4) = some opFar ∧
      [(7 : Word)].length = (oFar .sent).size ∧ sSent.freeToFail 0 4 = true ∧
      Tab.find ({ sFar with tags := [(2, .fill 5 0x02C1 false [])] } : State).tags 2 = some (.fill 5 0x02C1 false []) ∧
      Tab.find sFar.lines (lineIdx sFar.cfg 0x02C1 5) = none ∧ (List.replicate 16 (0 : Word)).length = 16 := by decide +kernel
def sHit : State := { sSent with farOps := [oFar (.hit [9])], merge := [mFar] }
/-- Another thread's hit stands before that of thread 0. -/
def sHits : State := { sHit with farOps := [{ oFar (.hit [7]) with id := 3, tid := 1 }, oFar (.hit [9])] }
def sNo : State := { sSent with farOps := [oFar .noTarget] }
theorem witness_FarEventsComplete :
    sHit.runs = true ∧ (sHit.thr 0).ops.find? (fun q => q.id = 4) = some opFar ∧ sHit.farOps = [] ++ oFar (.hit [9]) :: [] ∧
      sHits.farOps = [{ oFar (.hit [7]) with id := 3, tid := 1 }] ++ oFar (.hit [9]) :: [] ∧
      sNo.farOps.find? (fun o => decide (o.tid = 0) && decide (o.wait = .noTarget)) = some (oFar .noTarget) ∧
      sNo.freeToFail 0 4 = true ∧ sHit.merge[0]? = some mFar ∧ 32 ≤ mFar.age := by decide +kernel

/-! ### Waits, deadlines, control words, entry and return -/

def sWait : State := wth (fun th => { th.setCtl 0x09 0x8000 with ops := [opMul] })
/-- Sub 0xA, and the first word of a malformed REP prefix. -/
theorem witness_WaitsAndUndefined :
    ok s0 [(0xFA00, 0, .nop 0, {}), (0xFA16, 0, .settle 0 6, {}), (0xFA17, 0, .settle 0 7, {}), (0xFA20, 0, .sync 0, {}),
        (0xFA3F, 0, .wait 0 15, {}), (0xFA01, 0, .undefinedEncoding 0, {}), (0xF791, 0, .undefinedEncoding 0, {})] = true ∧
      ok sWait [(0xFA11, 0, .settle 0 1, {}), (0xFA3F, 0, .wait 0 15, {})] = true ∧
      ((sWait.thr 0).ops.filter (fun o => o.cls = 1)).map (·.id) ≠ [] ∧ parOk ((sWait.thr 0).ctlP 0x09) = true ∧
      bit ((sWait.thr 0).ctlW 0x09) 15 = true ∧ bit ((sWait.thr 0).ctlW 0x09) 14 = false ∧ repWord 0xF791 = true ∧ repWord 0xFA01 = false := by
  decide +kernel
/-- R72, R103, R104: odd pairs, and encodings that their second word makes undefined. -/
theorem witness_WaitsAndUndefined_odd :
    ok s0 [(0xA13A, 0, .mul 0 1 3, {}), (0xA13B, 0, .mulu 0 1 3, {}), (0xB411, 0, .ldP 0 1 (.ind 1), {}), (0xBC11, 0, .stP 0 1 (.ind 1), {}),
        (0xF841, 2, .ldfP 0 0 1 2, {}), (0xF8C1, 2, .stfP 0 0 1 2, {}), (0xFE71, 0x0001, .skstat 0 1 1, {}), (0xFDB1, 0x0004, .recvC 0 1 4, {}),
        (0xFD31, 0x0001, .tget 0 1 1, {}), (0xFC10, 0, .dlarmA 0 1, {}), (0xFC11, 0, .dlarmB 0 1, {}), (0xFC12, 0, .dlarmBw 0 1, {}),
        (0xFDE2, 0x0F1F, .finfoS 0 15 31, { words := 2 }), (0xFDE3, 0x0F04, .finfoN 0 15 4, { words := 2 }),
        (0xFDE4, 0x0104, .finfoP 0 1 4, { words := 2 })] = true ∧ (15 : Reg).val % 2 = 1 := by decide +kernel
theorem witness_WaitsAndUndefined_late :
    let p : Pre := { words := 2 }
    ok s0 [(0xF900, 0x1000, .undefinedEncoding 0, p), (0xFE00, 0x0007, .mstat 0 0 0 7 0, p), (0xFE11, 0x000E, .mstatC 0 0 1 7 0 0, p),
        (0xFE50, 0x1842, .vadd 0 2 0 1 0 3, p), (0xFE51, 0x1842, .vsub 0 2 0 1 0 3, p), (0xFE52, 0x1842, .vmul 0 2 0 1 0 3, p),
        (0xFE53, 0x1842, .vfma 0 2 0 1 0 3, p), (0xFE54, 0x1842, .vmax 0 2 0 1 0 3, p), (0xFE55, 0x1842, .vmin 0 2 0 1 0 3, p),
        (0xFE57, 0x1842, .vsel 0 2 0 1 3, p), (0xFE58, 0x1802, .vcvt 0 2 0 3, p), (0xFE59, 0x1802, .vexp2 0 2 0 3, p),
        (0xFE5A, 0x1802, .vlog2 0 2 0 3, p), (0xFE5B, 0x1802, .vrcp 0 2 0 3, p), (0xFE5C, 0x1802, .vrsq 0 2 0 3, p),
        (0xFE5D, 0x1803, .vrsum 0 3 0 3, p), (0xFE5E, 0x1803, .vrmax 0 3 0 3, p), (0xFE5F, 0x1A42, .vscale 0 2 0 1 1 3, p),
        (0xFE5F, 0x0042, .vscale 0 2 0 1 0 0, p), (0xFE5F, 0x0642, .vscale 0 2 0 1 3 0, p)] = true ∧
      bySecond 0 0xF900 = true ∧ bySecond 0 0xFA01 = false := by decide +kernel
def user (f : Thread → Thread) : State := wth (fun th => f (th.setCtl 0x01 0x0007))
def sDue : State := wth (fun th => { th with dlaDue := true })
theorem witness_Deadlines :
    let p : Pre := { reads := [14, 15] }
    (s0.thr 0).sup = true ∧ ((user id).thr 0).sup = false ∧ parOk (((user id).thr 0).ctlP 0x01) = true ∧
      ok s0 [(0xFCE0, 0, .dlarmA 0 14, p), (0xFCE1, 0, .dlarmB 0 14, p), (0xFCE2, 0, .dlarmBw 0 14, p), (0xFC03, 0, .dldisA 0, {}),
        (0xFC04, 0, .dldisB 0, {})] = true ∧
      ok (user id) [(0xFCE0, 0, .dlarmA 0 14, p), (0xFCE1, 0, .dlarmB 0 14, {}), (0xFCE2, 0, .dlarmBw 0 14, {}), (0xFC03, 0, .dldisA 0, {}),
        (0xFC04, 0, .dldisB 0, {})] = true ∧
      sDue.runs = true ∧ (sDue.thr 0).takesItems = true ∧ (sDue.thr 0).dlaDue = true ∧
      ((wth (fun th => { th with dlbDue := true })).thr 0).dlaDue = false ∧
      ((wth (fun th => { th with dlbDue := true })).thr 0).dlbDue = true := by decide +kernel
/-- Format C: 0xE, [11] the direction, [9:4] the index, [3:0] the register. -/
theorem witness_ControlWords :
    let p : Pre := { writes := [1] }
    ok s0 [(0xE2C1, 0, .mfc 0 1 0x2C, p), (0xE2D1, 0, .mfc 0 1 0x2D, p), (0xE201, 0, .mfc 0 1 0x20, p), (0xEAC1, 0, .mtc 0 0x2C 1, { reads := [1] }),
        (0xE9F1, 0, .mtc 0 0x1F 1, { reads := [1] }), (0xEAD1, 0, .mtc 0 0x2D 1, {})] = true ∧
      parOk ((s0.thr 0).ctlP 0x01) = true ∧
      ok (user id) [(0xE811, 0, .mtc 0 0x01 1, { reads := [1] }), (0xE861, 0, .mtc 0 0x06 1, {})] = true ∧
      parOk ((s0.setThr 0 { s0.thr 0 with ctl := [(8, ⟨1, false⟩)] }).thr 0 |>.ctlP 8) = false ∧
      parOk (((s0.modThr 0 (fun th => { th with tidBad := true })).thr 0).tidP 0) = false ∧
      (let e := s0.modThr 0 (fun th => { th with ctl := Tab.put th.ctl 9 ⟨1, false⟩ })
       ok e [(0xE891, 0, .mtc 0 0x09 1, { reads := [1] })] = true ∧ parOk ((e.thr 0).ctlP 9) = false) := by decide +kernel
def itZero : Item := item 0x09 0 0x0100 0
def sFault (psw : Word) : State := wth (fun th => { th.setCtl 0x01 psw with sync := some itZero })
theorem witness_FaultEntry :
    (sFault 0x000B).runs = true ∧ ((sFault 0x000B).thr 0).sync = some itZero ∧ ((sFault 0x000B).thr 0).haltReq = none ∧
      ((sFault 0x000B).thr 0).held = [] ∧ ((sFault 0x000B).thr 0).esc = false ∧ ((sFault 0x000B).thr 0).mask < 6 ∧
      (sFault 0x000B).frameCheck ((sFault 0x000B).thr 0).syncRws.syncShapes = none := by decide +kernel
theorem witness_EscalationAndFelling :
    ((sFault 0x000E).thr 0).esc = false ∧ 6 ≤ ((sFault 0x000E).thr 0).mask ∧
      (sFault 0x000E).frameCheck ((sFault 0x000E).thr 0).syncRws.syncShapes = none ∧
      ((sFault 0x001F).thr 0).esc = true ∧ (sFault 0x001F).runs = true ∧ ((sFault 0x001F).thr 0).st = .running := by decide +kernel
/-- A completion fault, a late fault and the program event 15 wait; PSW.MASK is 2. The event is of level 7, the others of level 5. -/
def sItems : State := wth (fun th => { ((th.setCtl 0x01 0x000A).setCtl 0x09 0x8000).setCtl 0x0A 0x8000 with
  compl := some itZero, complMore := 3, late := some { itZero with code := 0x32 } })
def bare (th : Thread) : Bool := th.still.isNone && th.deadlines.isEmpty && th.tvoid.isNone
theorem witness_ItemEntry :
    let th := sItems.thr 0
    sItems.runs = true ∧ th.st = .running ∧ th.sync = none ∧ th.itemHold = false ∧ sItems.parkReady 0 = false ∧ th.precise = false ∧
      th.mask = 2 ∧ th.esc = false ∧ sItems.warden = none ∧ bare th = true ∧ sItems.frameCheck th.syncRws.syncShapes = none ∧
      (sItems.choose 0).map (fun c => (c.1, c.2.1)) = some (7, 15) ∧
      ((sItems.modThr 0 (fun th => th.setCtl 0x09 0)).choose 0).map (fun c => (c.1, c.2.1)) = some (5, 2) ∧
      ((sItems.modThr 0 (fun th => th.setCtl 0x09 0)).thr 0).compl = some itZero := by decide +kernel
def cfgGate : Tab Word := Tab.put (Tab.put cfg0 0x047E 0x0777) 0x047F 0x000B
theorem witness_GateEntry :
    ok (user id) [(0xFB3F, 0, .gate 0 63, { uses := [0x01] })] = true ∧ ((user id).thr 0).sup = false ∧ ((user id).thr 0).held = [] ∧
      bit (gateW cfg0 ((user id).thr 0).world 0x3F 1) 0 = false ∧ bit (gateW cfgGate ((user id).thr 0).world 0x3F 1) 0 = true ∧
      ok { user id with cfg := cfgGate } [(0xFB3F, 0, .gate 0 63, { uses := [0x01] })] = true ∧
      ({ user id with cfg := cfgGate } : State).frameCheck ((user id).thr 0).syncRws.syncShapes = none ∧
      ok (user id) [(0xFB40, 0, .gate 0 64, { uses := [0x01] }), (0xFB7F, 0, .gate 0 127, { uses := [0x01] })] = true ∧
      ok s0 [(0xFB00, 0, .gate 0 0, { uses := [0x01] }), (0xFB3F, 0, .gate 0 63, { uses := [0x01] })] = true ∧ (s0.thr 0).sup = true := by
  decide +kernel
def sEret : State := wth (fun th => th.setCtl 0x06 0x3FE4)
theorem witness_EretRestores :
    ok sEret [(0xF605, 0, .eret 0, { sup := true, uses := [0x06], writes := [8, 9, 10, 11, 12, 13, 14, 15] })] = true ∧
      (sEret.thr 0).lfill = true ∧
      sEret.firstBad 0x02C1 0x3FE4 28 .r = none ∧ (∀ i < 28, parOk (sEret.mget (0x3FE4 + i)) = true) := by decide +kernel
/-- A user thread; an odd stack pointer, one whose frame would pass 0xFFFF, and one whose frame is not readable; word 13 of a frame
with failing parity, which is read only with LFILL. -/
theorem witness_EretRestores_faults :
    let p : Pre := { sup := true, uses := [0x06], writes := [8, 9, 10, 11, 12, 13, 14, 15] }
    let at_ (ssp : Word) : State := wth (fun th => th.setCtl 0x06 ssp)
    let bad : State := { sEret with mem := [(0x3FF1, ⟨1, false⟩)] }
    ok (user id) [(0xF605, 0, .eret 0, {})] = true ∧ ok (at_ 0x3FE3) [(0xF605, 0, .eret 0, p)] = true ∧
      ok (at_ 0xFFE6) [(0xF605, 0, .eret 0, p)] = true ∧ ok (at_ 0x3FE6) [(0xF605, 0, .eret 0, p)] = true ∧
      (at_ 0x3FE6).firstBad 0x02C1 0x3FE6 28 .r ≠ none ∧ 65536 < (0xFFE6 : Word).toNat + 28 ∧
      ok bad [(0xF605, 0, .eret 0, p)] = true ∧ (∀ j < 13, parOk (bad.mget (0x3FE4 + j)) = true) ∧ parOk (bad.mget (0x3FE4 + 13)) = false ∧
      ok (bad.modThr 0 (fun th => { th with lfill := false })) [(0xF605, 0, .eret 0, { p with writes := [] })] = true := by decide +kernel

/-! ### Contexts and services -/

def sSave : State := wth (fun th => (th.setCtl 0x0D 0x3FD0).setCtl 0x0E 0x0700)
def sRest (hdr : Word) : State := sSave.msetList 0x0700 [0, hdr]
theorem witness_ContextAreas_save :
    ok sSave [(0xF608, 0, .saveh 0, { sup := true }), (0xF6F9, 0, .savel 0 15, { sup := true })] = true ∧ (sSave.thr 0).ops = [] ∧
      oneCovers sSave.cfg (sSave.thr 0).wt 0x3FD0 0x3FFF = true ∧
      parOk (sSave.mget 0x3FD1) = true ∧ (∀ i ≤ 0x2C, parOk ((sSave.thr 0).ctlP i) = true) ∧
      (∀ n < 40, parOk ((sSave.thr 0).regP n) = true) := by decide +kernel
theorem witness_ContextAreas_restore :
    ok (sRest 0x8003) [(0xF60A, 0, .resth 0, { sup := true, spills := true })] = true ∧ ((sRest 0x8003).mget 0x0701).d.toNat / 16384 = 2 ∧
      ok (sRest 0x4000) [(0xF60B, 0, .restl 0, { sup := true })] = true ∧ ((sRest 0x4000).mget 0x0701).d.toNat / 16384 = 1 ∧
      (∀ i < 34, parOk ((sRest 0x8003).mget (0x0700 + i)) = true) ∧
      oneCovers cfg0 ((sRest 0x8003).thr 0).wt 0x0700 0x072F = true := by decide +kernel
theorem witness_ContextAreas_faults :
    let p : Pre := { sup := true, spills := true }
    ok s0 [(0xF608, 0, .saveh 0, p), (0xF6F9, 0, .savel 0 15, p), (0xF60A, 0, .resth 0, p), (0xF60B, 0, .restl 0, p)] = true ∧
      (s0.thr 0).ctlW 0x0D = 0 ∧ (s0.thr 0).ctlW 0x0E = 0 ∧
      (∀ m ∈ s0.merge, 0 ∉ m.threads) ∧ ((wth (fun th => th.setCtl 0x0D 0x0701)).thr 0).ctlW 0x0D % 4 ≠ 0 ∧
      ok (user id) [(0xF608, 0, .saveh 0, {}), (0xF6F9, 0, .savel 0 15, {}), (0xF60A, 0, .resth 0, {}), (0xF60B, 0, .restl 0, {})] = true := by
  decide +kernel
/-- Words that the context instructions read first, with failing parity: H15 and FREEP for SAVEH, G1 for SAVEL, SAVEP for the others; an
area that no entry covers, and one whose link or header fails. -/
theorem witness_ContextAreas_parity :
    let p : Pre := { sup := true, spills := true }
    let l : List (Word × Word × Instr × Pre) := [(0xF608, 0, .saveh 0, p), (0xF6F9, 0, .savel 0 15, p), (0xF60A, 0, .resth 0, p), (0xF60B, 0, .restl 0, p)]
    let c (i : Nat) : State := wth (fun th => { th with ctl := Tab.put th.ctl i ⟨1, false⟩ })
    let r (n : Nat) : State := wth (fun th => { th with regs := Tab.put th.regs n ⟨1, false⟩ })
    let a (w : Word) : State := wth (fun th => (th.setCtl 0x0D w).setCtl 0x0E w)
    ok (c 0x0D) l = true ∧ ok (c 0x0E) l = true ∧ ok (r 39) l = true ∧ ok (r 1) l = true ∧ parOk (((c 0x0D).thr 0).ctlP 0x0D) = false ∧
      parOk (((r 39).thr 0).regP 39) = false ∧ ok (a 0x0701) l = true ∧ ok (a 0x3FF0) l = true ∧
      oneCovers cfg0 0x02C1 0x3FF0 (0x3FF0 + 47) = false ∧ oneCovers cfg0 0x02C1 0x0700 (0x0700 + 47) = true ∧
      parOk (({ a 0x0700 with mem := [(0x0701, ⟨1, false⟩)] } : State).mget 0x0701) = false := by decide +kernel
/-- A hardware-gate entry 64 for both worlds with arguments 0 to 9, for a service and an argument. -/
def svc (code g0 : Word) : State :=
  { wth (fun th => th.setReg 0 g0) with cfg := Tab.put (Tab.put cfg0 0x0500 (0x18 ||| code)) 0x0502 0xFFFF }
def svcPre (code : Word) : Pre := { reads := if code = 6 then [0, 2, 3] else [0], regNos := [0, 1], uses := [0x01] }
def permitted (code g0 : Word) : Bool :=
  ok (svc code g0) [(0xFB40, 0, .gate 0 64, svcPre code)] && !(svc code g0).svcBusy && ((svc code g0).thr 0).sup &&
    decide ((hgateW (svc code g0).cfg 64 0).toNat % 8 = code.toNat) && bit (hgateW (svc code g0).cfg 64 0) 3 &&
    decide ((hgateW (svc code g0).cfg 64 1).toNat ≤ g0.toNat) && decide (g0.toNat ≤ (hgateW (svc code g0).cfg 64 2).toNat) &&
    svcArgOk code.toNat g0 && !((svc code g0).thr 0).world
theorem witness_Services :
    [((1 : Word), (2 : Word)), (1, 4), (2, 0), (3, 0), (4, 0x0208), (5, 7), (6, 0xFFFF)].all (fun p => permitted p.1 p.2) = true ∧
      ((svc 6 1).thr 0).notifyAge = none ∧ (svc 4 0x0208).clk.freq = none ∧ (svc 2 0).testable 0 = true ∧
      ({ svc 2 0 with ready := 0 } : State).testable 0 = false := by decide +kernel
/-- The entry 64 enabled for neither world. -/
def svcNo (code : Word) : State := { s0 with cfg := Tab.put cfg0 0x0500 code }
theorem witness_Services_refused :
    ok (svc 1 5) [(0xFB40, 0, .gate 0 64, svcPre 1)] = true ∧ svcArgOk 1 5 = false ∧
      [(1 : Word), 2, 3, 4, 5, 6].all (fun code => ok (svcNo code) [(0xFB40, 0, .gate 0 64, svcPre code)] &&
        decide ((hgateW (svcNo code).cfg 64 0).toNat % 8 = code.toNat) && !bit (hgateW (svcNo code).cfg 64 0) 3) = true := by
  decide +kernel

/-! ### Tile engines -/

/-- Tile 1 is of 2 rows of 4 words; the second thread view entry names an unmapped tile. -/
def sTile : State := wth (fun th => { (th.setBoth 0x0F 0x3250).setRegs [(1, 0x3FF8), (2, 4)] with shapes := [(0, 0x0601), (2, 0x0601)] })
/-- Sub 0xD, [7:4] = 0 to 3: tile 0 is mapped and tile 1 is not. -/
def tcfgs : List (Word × Word × Instr × Pre) :=
  let p : Pre := { words := 2, uses := [0x0F] }
  [(0xFD00, 0xFE03, .tcfgI 0 0 0xFE03, p), (0xFD01, 0x8207, .tcfgI 0 1 0x8207, p), (0xFD1F, 0x0000, .tcfgR 0 0 15, { p with reads := [15] }),
    (0xFD20, 0, .syncT 0, {}), (0xFD3E, 0x0001, .tget 0 14 1, { p with writes := [14, 15] })]
theorem witness_TileConfiguration :
    ok sTile tcfgs = true ∧ tileOwner sTile.cfg ((sTile.thr 0).phys 0) = some 0 ∧ tileOwner sTile.cfg ((sTile.thr 0).phys 1) = none ∧
      (shRows 0xFE03 + 1) * shWpr 0xFE03 = 512 ∧ (shRows 0x8207 + 1) * shWpr 0x8207 = 528 ∧ (sTile.thr 0).sfill = true ∧
      (let h (ssp : Word) : State := sTile.modThr 0 (fun th => { th.setCtl 0x06 ssp with sfill := false })
       ok (h 0x3000) (tcfgs.take 3) = true ∧ ((h 0x3000).firstBad 0x02C1 (0x3000 + 12) 16 .w).isNone = true ∧
        ok (h 0x3FF8) (tcfgs.take 3) = true ∧ ((h 0x3FF8).firstBad 0x02C1 (0x3FF8 + 12) 16 .w).isSome = true) := by decide +kernel
/-- R227, R228: [13] of the second word marks the unsealed forms. -/
theorem witness_TileOperationsIssue :
    let p : Pre := { words := 2, reads := [1, 2], uses := [0x0F, 0x12, 0x13], long := true }
    let q : Pre := { p with uses := [0x0F, 0x12, 0x13, 0x11] }
    let l : List (Word × Word × Instr × Pre) := [(0xFD41, 0x0190, .tld 0 0 1 2 3, q), (0xFD41, 0x3F90, .tldU 0 0 1 2, p),
      (0xFD51, 0x1F90, .tst 0 0 1 2 63, q), (0xFD51, 0x3F90, .tstU 0 0 1 2, p), (0xFD60, 0, .tzero 0 0, { uses := [0x0F], long := true })]
    (sTile.thr 0).tilePending < 2 ∧ ok sTile l = true ∧ (sTile.thr 0).mres = false ∧ sTile.poisoned 0 = false ∧
      (let r := sTile.modThr 0 (fun th => th.setMrow 1 0x8000)
       (r.thr 0).mres = true ∧ ok r (l.take 4) = true ∧ (r.thr 0).mrow0 = 1 ∧ shRows 0x0601 = 1) ∧
      (sTile.setPoison 0 true).poisoned 0 = true ∧ sTile.tileRange 0x02C1 .tldU 0x0601 0x3FF8 4 0 = none ∧
      sTile.tileRange 0x02C1 .tldU 0x0601 0x3FF9 4 0 ≠ none ∧ sTile.tileRange 0x02C1 .tst 0x0601 0x3FF8 4 0x3FFE = none ∧
      0 < shWpr 0x0601 := by decide +kernel
/-- An operation of tile 1 on engine 1: 2 rows of 4 words from 0x0800, with its slot at 0x0900. -/
def tOp (k : TileKind) (begun fin : Bool) : TileOp :=
  ⟨7, 0, 0x0100, k, 1, 1, 0x0601, 0x0800, 4, 0x0900, 5, 0, begun, 0, 0, 0, 0, (0, 0), false, none, false, fin, false⟩
def opTile : LongOp := ⟨7, 3, 0x0100, [], [], false, 0, true⟩
def sEng (o : TileOp) : State := { wth (fun th => { th with ops := [opTile] }) with eng := [(1, [o])] }
theorem witness_TileOperationsRun_start :
    ∀ k ∈ [TileKind.tld, .tst, .tzero], (sEng (tOp k false false)).flows = true ∧
      ((sEng (tOp k false false)).engQ 1).find? (fun o => !o.begun) = some (tOp k false false) ∧
      (∀ b ∈ (sEng (tOp k false false)).engQ 1, b.begun = true → b.finished = true ∧ b.kind ≠ .tst) := by decide +kernel
theorem witness_TileOperationsRun_cycle :
    ∀ k ∈ [TileKind.tld, .tldU, .tst, .tstU, .tzero],
      ((sEng (tOp k true false)).engQ 1).find? (fun o => o.begun && !o.finished) = some (tOp k true false) ∧
      (tOp k true false).from_ ≤ (tOp k true false).row ∧ (tOp k true false).stopReq = false ∧
      (k = .tzero ∨ 0 < (tOp k true false).span.2.2.1) ∧ (tOp k true false).span.1 + (tOp k true false).span.2.2.1 ≤ 512 ∧
      (tOp k true false).span.2.1 + (tOp k true false).span.2.2.1 ≤ 65536 ∧
      (∀ i < (tOp k true false).span.2.2.1, parOk ((sEng (tOp k true false)).tget 1 i) = true) ∧
      parOk (({ sEng (tOp k true false) with tiles := [(512, ⟨1, false⟩)] } : State).tget 1 0) = false ∧ (tOp k true false).cyc < 16 := by
  decide +kernel
theorem witness_TileBlazesAndRetirement :
    ∀ k ∈ [TileKind.tld, .tldU, .tst, .tstU, .tzero], ∀ bad ∈ [none, some 3],
      let o := { tOp k true true with badAt := bad }
      (sEng o).flows = true ∧ ((sEng o).engQ 1).head? = some o ∧ o.finished = true ∧
        ((sEng o).thr o.tid).ops.find? (fun q => q.id = o.id) = some opTile ∧ (sEng o).freeToFail o.tid o.id = true ∧
        o.slotVal = (wd o.c0, wd o.c1) ∧ o.badSlot = false ∧ o.mismatch = false := by decide +kernel
/-- Thread 0 held by PSW.PRECISE at an operation, with the program event 10 deliverable. -/
def preciseAt (f : Thread → Thread) : State := wth (fun th => f (((th.setCtl 0x01 0x0028).setCtl 0x09 0x0400).setCtl 0x0A 0x0400))
theorem witness_PreciseStops_tile :
    ∀ cyc ∈ [0, 1],
      let o : TileOp := { tOp .tld true false with row := 1, cyc := cyc }
      let s : State := { preciseAt (fun th => { th with ops := [opTile] }) with eng := [(1, [o])] }
      s.runs = true ∧ (s.thr 0).sync = none ∧ (s.thr 0).itemHold = false ∧ (s.thr 0).precise = true ∧ (s.thr 0).ops = [opTile] ∧
        opTile.prec = true ∧ (s.thr 0).compl = none ∧ s.choose 0 = some (2, 10, .event 10) ∧ s.tileOp opTile.id = some o ∧ o.id = opTile.id ∧
        o.tid = 0 ∧ o.row ≤ shRows o.shape ∧ s.frameCheck (s.thr 0).syncRws.syncShapes = none := by decide +kernel

/-! ### Arrays -/

/-- A descriptor of MSTREAM: START, END, K = 20, weights at 0x1000, output at 0x2000. -/
def dStr (ctl : Word) : List Word := [ctl, 0x1300, 0x0400, 0x1000, 16, 0, 0, 0, 0x2000, 32, 0, 0, 0, 0, 0, 0]
def rec0 : StatRec := ⟨0, 0, .fp16, 20⟩
/-- Tile 0 holds 8 rows of 20 FP16 elements; slot 0 of array 0 belongs to thread 0. -/
def sArr (ctl : Word) : State :=
  { (wth (fun th => { th.setReg 1 0x0500 with shapes := [(0, 0x2607)] })).msetList 0x0500 (dStr ctl) with arrs := [(0, { Arr.init with recs := [(0, rec0)] })] }
/-- Sub 0xE, [7:4] = 0 and 4. -/
theorem witness_StationaryIssue :
    (0 : BitVec 3).toNat ≠ 7 ∧ ok (sArr 0xE0) [(0xFE00, 0x0000, .mstat 0 0 0 0 0, { words := 2, uses := [0x0F], long := true }),
        (0xFE40, 0x0000, .mtab 0 0 0 0, { words := 2, uses := [0x0F], long := true }),
        (0xFE0F, 0x001C, .mstat 0 1 7 4 3, { words := 2, uses := [0x10], long := true })] = true ∧
      shRows ((sArr 0xE0).thr 0 |>.shape 0) + 1 = shpIn 0 ∧ hasShare cfg0 0 0 0 = true ∧ modePermits (shareMode cfg0 0) 0 = true ∧
      ((sArr 0xE0).thr 0).matrixPending < 4 ∧ bit (sArr 0xE0).ready 6 = true := by decide +kernel
/-- A descriptor of MSTAT.C: an input of 4 rows of 4 pixels of 8 channels at 0x1000. -/
def sConv : State := (sArr 0xE0).msetList 0x0500 [0x1000, 0x0303, 0x0001, 1, 0x0011, 0x0311, 0, 0]
theorem witness_MstatCIssue :
    (0 : BitVec 3).toNat ≠ 7 ∧ ok sConv [(0xFE11, 0x01C0, .mstatC 0 0 1 0 0 7, { words := 2, reads := [1], long := true })] = true ∧ sConv.descOk 0 0x0500 8 = true ∧
      ((sConv.modThr 0 (fun th => th.setReg 1 0x0501)).thr 0).reg 1 = 0x0501 ∧ (0x0501 : Word).toNat % 2 = 1 ∧
      (Conv.of (sConv.descAt 0x0500 8)).kstart + 7 < (Conv.of (sConv.descAt 0x0500 8)).kh * (Conv.of (sConv.descAt 0x0500 8)).kw *
        (Conv.of (sConv.descAt 0x0500 8)).c := by decide +kernel
/-- The hypotheses of MstreamHandOff that the descriptor's first word can change, for thread 0, array 0, slot 0 and register 1. -/
def handsOff (ctl : Word) (s : State) : Prop :=
  let d := s.descAt 0x0500 16
  (ok s [(0xFE21, 0, .mstream 0 0 1, { reads := [1], uses := [0x2A, 0x28, 0x29, 0x12, 0x13], long := true })] = true ∧ s.descOk 0 0x0500 16 = true ∧ d = dStr ctl ∧
    fieldBad d = none ∧ (s.arr 0).felled = false ∧ pairBad0 d = false) ∧
    (dsProb d = 0 ∧ hasShare s.cfg 0 0 0 = true ∧ modePermits (shareMode s.cfg 0) (dsShape d) = true ∧
      Tab.find (s.arr 0).recs 0 = some rec0 ∧ pairBad rec0.ty d = false ∧ rec0.shape = dsShape d ∧ dsK d ≤ rec0.kl ∧
      dsK d ≤ kLimit (dsShape d) rec0.ty ∧ dsShape d ≠ 4) ∧
    ((dsStart d && dsEnd d) = true ∨ (chainHolder s.cfg 0 0 = some 0 ∧
      (if dsStart d then (Tab.find (s.arr 0).chains 0).isNone else (Tab.find (s.arr 0).chains 0).isSome) = true)) ∧
    dsExp d = 0 ∧ dsWsrc d = false ∧ (dsEnd d = true → dsOkind d = 0) ∧
    (∀ q ∈ streamRanges d 0, rangeCheck s.cfg (s.thr 0).wt q.1 q.2.1 [q.2.2] = none) ∧ (s.thr 0).matrixPending < 4 ∧ bit s.ready 6 = true
theorem witness_MstreamHandOff_single : handsOff 0xE0 (sArr 0xE0) := by unfold handsOff; decide +kernel
theorem witness_MstreamHandOff_resumed : handsOff 0xE0 ((sArr 0xE0).modThr 0 (fun th => th.setMrow 0 0x8000)) ∧
    dsNpm1 (dStr 0xE0) < 1 ∧ (((sArr 0xE0).modThr 0 (fun th => th.setMrow 1 0x8000)).thr 0).mres = true := by unfold handsOff; decide +kernel
theorem witness_MstreamHandOff_first : handsOff 0xC0 (sArr 0xC0) := by unfold handsOff; decide +kernel
theorem witness_MstreamHandOff_last : handsOff 0xA0 ((sArr 0xA0).modArr 0 (fun x => { x with chains := [(0, ⟨3, 0, 0x00F0⟩)] })) := by
  unfold handsOff
  decide +kernel

/-- A load of slot 0 by thread 0. -/
def jb (k : JobKind) (done : Bool) (find : Option Find) (run : Nat) : Job := ⟨7, 0, 0x0100, 0, k, 0, .fp16, 8, 0, run, [], find, Counts.zero, done, false⟩
def convD : List Word := [0x1000, 0x0303, 0x0001, 1, 0x0011, 0x0311, 0, 0]
def sJob (j : Job) : State :=
  { wth (fun th => { th with ops := [⟨7, 4, 0x0100, [], [], false, 0, false⟩] }) with arrs := [(0, { Arr.init with jobs := [j] })] }
def jG : Job := jb (.gather convD) false none 0
theorem witness_StationaryLoads_run :
    (sJob jG).flows = true ∧
      ((sJob jG).arr 0).jobs.find? (fun j => decide (j.slot = 0) && !j.done && j.nextRun.isSome) = some jG ∧
      jG.nextRun.any (fun x =>
        let v := Conv.of convD
        let tap := (v.taps jG.kl).getD (x.1 / shpIn jG.shape) (0, 0, 0)
        decide (v.kstart ≤ tap.1 * v.c + tap.2.1) && (v.pixel (x.1 % shpIn jG.shape) tap.1).isSome &&
          decide ((sJob jG).memFind x.2.1 x.2.2 = none)) = true := by decide +kernel
def jT : Job := jb (.tile 0 0 0x0E07) false none 0
theorem witness_StationaryLoads_fill :
    ((sJob jT).arr 0).fillPtr = jT.slot ∧ jT.slot < 4 ∧
      ((sJob jT).arr 0).jobs.find? (fun q => decide (q.slot = jT.slot) && !q.done && !q.isTable) = some jT ∧
      ((sJob jT).arr 0).frontFree jT jT.next = true ∧ jT.gathered jT.next = true ∧
      (∀ r < shpIn jT.shape, ((sJob jT).jobElem jT r jT.next).2 = none) ∧ jT.find = none := by decide +kernel
theorem witness_StationaryLoads_retire :
    ∀ f ∈ [none, some (⟨0x06, 0x70, 3⟩ : Find)],
      let j := jb (.tile 0 0 0x0E07) true f 0
      ((sJob j).arr 0).jobs.find? (fun j => decide (j.slot = 0) && j.done && !j.isTable) = some j ∧
        ((sJob j).thr 0).ops.find? (fun q => q.id = 7) = some ⟨7, 4, 0x0100, [], [], false, 0, false⟩ ∧ (sJob j).freeToFail 0 7 = true := by decide +kernel
def jX : Job := jb (.table 0 0 0x1E00) false none 0
theorem witness_StationaryLoads_table :
    ((sJob jX).arr 0).jobs.find? (fun j => decide (j.slot = 0) && j.isTable) = some jX ∧ jX.voided = false ∧
      (∀ q ∈ ((sJob jX).arr 0).passes, q.slot ≠ 0) ∧ (∀ i < 16, parOk ((sJob jX).tget 0 i) = true) := by decide +kernel

/-- A pass of slot 0 in a phase, at step `k`. -/
def ps (ph : PassPhase) (k : Nat) : Pass := ⟨9, 8, 0, 0x0100, 0, 0, dStr 0xE0, .fp16, 0, 0x0018, 0, 0, 0, 0, 0x0100, false, 0, ph, 0, 0, k, [], [], [],
  false, false, 0, [], [], 0, ⟨0, none, none, false, false⟩, false, 0, 0⟩
def strm (f : Option (Nat × Item)) : Stream := ⟨8, 0, 0x0100, 0, dStr 0xE0, 0, Counts.zero, f, none, false⟩
def sPass (q : Pass) (f : Option (Nat × Item)) : State :=
  { wth (fun th => { th with ops := [⟨8, 4, 0x0100, [], [], false, 0, true⟩] }) with
    arrs := [(0, { Arr.init with recs := [(0, rec0)], passes := [q], streams := [strm f] })] }
theorem witness_PassesRun_start :
    let q := ps .waiting 0
    let s := sPass q none
    s.runs = true ∧ (s.arr 0).testing = none ∧ (slotEntries s.cfg 0 0).find? (fun e => decide (Tab.get 0 (s.arr 0).ptr 0 ≤ e)) = some 0 ∧
      (s.arr 0).passes.find? (fun q => decide (q.slot = 0) && decide (q.tid = entTid s.cfg 0 0) && decide (q.phase = .waiting)) = some q ∧
      (s.arr 0).felled = false ∧ (s.arr 0).readyPass q = true ∧ (s.arr 0).startBuf q = some 0 := by decide +kernel
/-- An MSTREAM that PSW.PRECISE holds, with its pass not started, and one whose stop has left no pass. -/
theorem witness_PreciseStops_stream :
    let op : LongOp := ⟨8, 4, 0x0100, [], [], false, 0, true⟩
    let s : State := { preciseAt (fun th => { th with ops := [op] }) with arrs := (sPass (ps .waiting 0) none).arrs }
    (s.thr 0).ops = [op] ∧ s.tileOp 8 = none ∧ s.choose 0 = some (2, 10, .event 10) ∧ (s.thr 0).itemHold = false ∧
      (s.arr 0).passes.find? (fun p => p.sid = 8 && p.phase = .waiting) = some (ps .waiting 0) := by decide +kernel
theorem witness_PassesRun_step :
    ∀ k ∈ [0, 18, 19],
      let q := ps .streaming k
      let s := sPass q none
      (s.arr 0).passes.find? (fun q => decide (q.slot = 0) && decide (q.phase = .streaming)) = some q ∧
        (∀ r ∈ (s.arr 0).passes, r.orphan = false) ∧ (s.arr 0).jobs = [] ∧ Tab.find (s.arr 0).voidCol k = none ∧ dsExp q.desc ≠ 1 ∧
        q.newBlocks k = [] ∧ dsWsrc q.desc = false ∧ (∀ r ∈ q.stepRows k, (s.weightWords q r).2 = none) := by decide +kernel
theorem witness_PassesEnd_drain :
    let q := ps .draining 0
    let s := sPass q none
    s.flows = true ∧ (s.arr 0).passes.find? (fun q => decide (q.slot = 0) && decide (q.phase = .draining)) = some q ∧
      q.row + 1 < shpRc (dsShape q.desc) ∧ ({ q with row := 7 } : Pass).row + 1 = shpRc (dsShape q.desc) ∧ dsShape q.desc ≠ 4 ∧ dsRmode q.desc < 2 ∧
      ((s.arr 0).passes.filter (fun r => decide (r.slot = 0) && (decide (r.phase = .verdict) || decide (r.phase = .writing)))).length < 2 := by decide +kernel
theorem witness_PassesEnd_verdict :
    let q := ps .verdict 0
    let s := sPass q none
    (s.arr 0).passes = [] ++ q :: [] ∧ q.slot = 0 ∧ q.phase = .verdict ∧ q.seen.col = none ∧ q.seen.row = none ∧
      q.seen.corner = false ∧ q.inChain = false ∧ strm none ∈ (s.arr 0).streams ∧ (strm none).id = q.sid ∧ (s.arr 0).lastMismatch = none ∧
      ({ q with expd := true } : Pass).expd = true ∧ (s.arr 0).passCount - 0 < 2 ^ 20 := by decide +kernel
/-- A pass of an open chain that has failed in column segment 3, with the chain's next pass waiting in an MSTREAM of its own; the pass
behind it in the list has the earlier verdict. -/
def psC (ph : PassPhase) (id sid vAt : Nat) (ctl : Word) (col : Option Nat) : Pass :=
  { ps ph 0 with id := id, sid := sid, vAt := vAt, desc := dStr ctl, inChain := true, chain := 3, firstPc := 0x00F0, seen := ⟨0, col, none, false, false⟩ }
def sChain : State := s0.modArr 0 (fun x => { x with
  passes := [psC .waiting 12 11 0 0x80 none, { ps .verdict 0 with id := 10, vAt := 300 }, psC .verdict 9 8 200 0xC0 (some 3)]
  streams := [strm none, { strm none with id := 11 }], chains := [(0, ⟨3, 0, 0x00F0⟩)], chainBufs := [(0, ⟨0, 3, 0, false⟩)] })
def qC : Pass := psC .verdict 9 8 200 0xC0 (some 3)
def rC : Pass := psC .waiting 12 11 0 0x80 none
theorem witness_PassesEnd_chain :
    (sChain.arr 0).passes = [rC, { ps .verdict 0 with id := 10, vAt := 300 }] ++ qC :: [] ∧
      [rC, { ps .verdict 0 with id := 10, vAt := 300 }].all (fun r => decide (r.phase ≠ .verdict) || decide (qC.vAt < r.vAt)) = true ∧
      (sChain.arr 0).passes.all (fun r => !r.orphan) = true ∧ qC.seen.col.isSome = true ∧ qC.inChain = true ∧
      (sChain.arr 0).streams = [strm none, { strm none with id := 11 }] ∧ (sChain.arr 0).lastMismatch = none := by decide +kernel
theorem witness_PassesEnd_follows :
    rC.tid = qC.tid ∧ rC.slot = qC.slot ∧ dsStart rC.desc = false ∧ rC.phase = .waiting ∧ rC.inChain = true ∧ rC.sid ≠ qC.sid ∧
      (sChain.arr 0).passes.all (fun z => decide (z.sid ≠ rC.sid) || decide (z = rC)) = true := by decide +kernel
/-- R261, R289: the pass whose verdict is the earlier one writes first, though it stands behind the other. -/
theorem test_verdict_order :
    let s := s0.modArr 0 (fun x => { x with
      passes := [{ ps .verdict 0 with id := 10, vAt := 300 }, { ps .verdict 0 with vAt := 200 }], streams := [strm none] })
    ((after (.passVerdict 0 0 false false) s).arr 0).writeQ = [9] := by decide +kernel
/-- R327: the chain is void, and the waiting pass's MSTREAM completes with KIND 6. -/
theorem test_chain_void :
    let x := (after (.passVerdict 0 0 false false) sChain).arr 0
    x.chains = [] ∧ x.chainBufs = [] ∧ x.streams.map (fun m => m.fault.map (fun f => (f.2.code, f.2.aux, f.2.faddr, f.2.pc))) =
      [some (0x13, 0x82, 0x00F0, some 0x0101), some (0x13, 0x86, 0x00F0, some 0x0101)] := by decide +kernel
def psW (kind : Word) : Pass := { ps .writing 0 with desc := [0xE0, 0x1300, kind, 0x1000, 16, 0, 0, 0, 0x2000, 32, 0, 0, 0, 0, 0, 0] }
def sW (kind : Word) : State := (sPass (psW kind) none).modArr 0 (fun x => { x with writeQ := [9] })
def writes (kind : Word) : Bool :=
  decide (((sW kind).arr 0).writeQ.head?.bind (fun id => ((sW kind).arr 0).passes.find? (fun q => q.id = id)) = some (psW kind)) &&
    decide ((psW kind).access.2.1 ≤ ((dsOty (psW kind).desc).pack ((psW kind).outRow 0)).length) &&
    decide ((psW kind).memAt 0 + (psW kind).access.2.1 ≤ 65536)
theorem witness_PassesEnd_write : writes 0x0400 = true ∧ writes 0x0480 = true := by decide +kernel
theorem witness_PassesEnd_retire :
    ∀ f ∈ [none, some (0, item 0x13 1 0x0100 0)],
      let s := sPass (ps .done 0) f
      (s.arr 0).streams.find? (fun m => decide (m.slot = 0) && (s.arr 0).passes.all (fun q => decide (q.sid ≠ m.id) || decide (q.phase = .done))) =
          some (strm f) ∧
        (s.thr 0).ops.find? (fun o => o.id = 8) = some ⟨8, 4, 0x0100, [], [], false, 0, true⟩ ∧ bit (dsW (strm f).desc 13) 4 = false ∧
        s.freeToFail 0 8 = true := by decide +kernel
/-- R288: EVE = 1 sets the event 5 of the thread as its MSTREAM retires, with a fault or without. -/
theorem test_mstream_event :
    ∀ f ∈ [none, some (0, item 0x13 1 0x0100 0)],
      let m := { strm f with desc := [0xE0, 0x1300, 0x0400, 0x1000, 16, 0, 0, 0, 0x2000, 32, 0, 0, 0, 0x15, 0, 0] }
      ((after (.mstreamRetire 0 0) ((sPass (ps .done 0) f).modArr 0 (fun x => { x with streams := [m] }))).thr 0).ctlW 0x09 = 0x0020 := by
  decide +kernel

/-! ### The row unit -/

/-- Tiles 0 to 2 hold 4 rows of 8 elements, FP16 and FP32; tile 3 holds 1 row of 4 FP32 elements. -/
def sRow : State := wth (fun th => { th with shapes := [(0, 0x0E03), (1, 0x0E03), (2, 0x0E83), (3, 0x0680)] })
theorem witness_RowInstructionsIssue :
    let p : Pre := { words := 2, uses := [0x0F, 0x0F, 0x0F] ++ [0x28, 0x29, 0x2A], long := true }
    let q : Pre := { words := 2, uses := [0x0F, 0x0F] ++ [0x28, 0x29, 0x2A], long := true }
    ok sRow [(0xFE50, 0x0042, .vadd 0 2 0 1 0 0, p), (0xFE51, 0x0242, .vsub 0 2 0 1 1 0, p), (0xFE52, 0x0C42, .vmul 0 2 0 1 2 1, p),
        (0xFE53, 0x1042, .vfma 0 2 0 1 0 2, p), (0xFE54, 0x0642, .vmax 0 2 0 1 3 0, p), (0xFE55, 0x0042, .vmin 0 2 0 1 0 0, p),
        (0xFE56, 0x1842, .vcmp 0 2 0 1 0 3, p), (0xFE57, 0x0842, .vsel 0 2 0 1 1, p), (0xFE58, 0x0002, .vcvt 0 2 0 0, q),
        (0xFE59, 0x0802, .vexp2 0 2 0 1, q), (0xFE5A, 0x0002, .vlog2 0 2 0 0, q), (0xFE5B, 0x0002, .vrcp 0 2 0 0, q),
        (0xFE5C, 0x0002, .vrsq 0 2 0 0, q), (0xFE5D, 0x1003, .vrsum 0 3 0 2, q), (0xFE5E, 0x0003, .vrmax 0 3 0 0, q),
        (0xFE5F, 0x02C2, .vscale 0 2 0 3 1 0, p)] = true ∧
      (∀ tn < 4, tileOwner sRow.cfg ((sRow.thr 0).phys tn) = some 0 ∧ sRow.poisoned ((sRow.thr 0).phys tn) = false) ∧
      shRows 0x0E03 = shRows 0x0E83 ∧ shElems 0x0E03 = shElems 0x0E83 ∧ shRows 0x0E83 ≤ shElems 0x0680 ∧ shType 0x0680 = .fp32 ∧
      ((sRow.thr 0).ops.filter (fun o => o.cls = 5)).length < 2 ∧ (2 : BitVec 2).toNat < 3 ∧
      tileOwner ({ sRow with cfg := [] } : State).cfg ((sRow.thr 0).phys 0) ≠ some 0 := by decide +kernel
/-- The third tile is unmapped; shapes that do not fit; a poisoned source; two instructions pending. -/
theorem witness_RowInstructionsIssue_checks :
    let p : Pre := { words := 2, uses := [0x0F, 0x0F, 0x0F] ++ [0x28, 0x29, 0x2A], long := true }
    let issues (s : State) (v : Word) (td tb : LTile) (bc : BitVec 2) : Bool := ok s [(0xFE50, v, .vadd 0 td 0 tb bc 0, p)]
    let full := sRow.modThr 0 (fun th => { th with ops := List.replicate 2 ⟨7, 5, 0x0100, [], [], false, 0, false⟩ })
    let view := sRow.modThr 0 (fun th => th.setBoth 0x0F 0x3910)
    issues view 0x0042 2 1 0 = true ∧ tileOwner view.cfg ((view.thr 0).phys 2) = none ∧ tileOwner view.cfg ((view.thr 0).phys 0) = some 0 ∧
      issues sRow 0x00C2 2 3 0 = true ∧ shElems 0x0680 ≠ shElems 0x0E83 ∧ issues sRow 0x04C2 2 3 2 = true ∧ shElems 0x0680 < shElems 0x0E83 ∧
      shType 0x0E03 ≠ .fp32 ∧ issues (sRow.setPoison 1 true) 0x0042 2 1 0 = true ∧ issues full 0x0042 2 1 0 = true ∧
      2 ≤ ((full.thr 0).ops.filter (fun o => o.cls = 5)).length := by decide +kernel
def rowOp (op : Nat) : RowOp := ⟨7, 0, 0x0100, op, 2, 0, 1, 2, 0, 1, 0x0E83, 0x0E03, 0x0E03, 0, 1, 0, false⟩
def sRowOp (op : Nat) : State := { wth (fun th => { th with ops := [⟨7, 5, 0x0100, [], [], false, 0, false⟩] }) with rowCur := some (rowOp op) }
theorem witness_RowUnitWorks_start :
    let o := { rowOp 0 with tid := 63 }
    let s : State := { s0 with rowQ := [o] }
    s.runs = true ∧ s.rowCur = none ∧ s.rowQ.find? (fun o => o.tid = (s.rowLast + 1 + 63) % 64) = some o ∧
      (∀ j < 63, s.rowQ.find? (fun o => o.tid = (s.rowLast + 1 + j) % 64) = none) := by decide +kernel
def soundTile (s : State) (p : Nat) (w : Word) : Bool := (List.range ((shRows w + 1) * shWpr w)).all (fun i => parOk (s.tget p i))
theorem witness_RowUnitWorks_elements :
    ∀ op ∈ [0, 3, 6, 15], (sRowOp op).flows = true ∧ ((sRowOp op).thr 0).ops.find? (fun q => q.id = 7) = some ⟨7, 5, 0x0100, [], [], false, 0, false⟩ ∧
      (shRows 0x0E83 + 1) * shWpr 0x0E83 ≤ 512 ∧ (shRows 0x0E83 + 1) * shWpr 0x0E03 ≤ 512 ∧ soundTile (sRowOp op) 0 0x0E03 = true ∧
      soundTile (sRowOp op) 1 0x0E03 = true ∧ soundTile (sRowOp op) 2 0x0E83 = true ∧ shElems 0x0E03 = shElems 0x0E83 ∧ (rowOp op).rm < 3 := by
  decide +kernel
/-- Contents of the tiles after the first `r` rows, each with its words, exist for any words. -/
theorem witness_RowUnitWorks_tiles (s : State) (td wpr : Nat) (row : (Nat → Nat → ParWord) → Nat → Nat → ParWord) :
    ∃ tiles : Nat → Nat → Nat → ParWord, tiles 0 = s.tget ∧
      ∀ r, tiles (r + 1) = fun t i => if t = td ∧ r * wpr ≤ i ∧ i < (r + 1) * wpr then row (tiles r) r (i - r * wpr) else tiles r t i :=
  ⟨Nat.rec s.tget (fun r T t i => if t = td ∧ r * wpr ≤ i ∧ i < (r + 1) * wpr then row T r (i - r * wpr) else T t i), rfl, fun _ => rfl⟩
theorem witness_RowFunctions :
    (-126 : Int) ≤ -126 ∧ ((5 : Nat) : Rat) * (2 : Rat) ^ (0 : Int) = ((5 : Int) : Rat) ∧ (128 : Rat) ≤ ((1 : Nat) : Rat) * (2 : Rat) ^ (7 : Int) ∧
      -(((127 : Nat) : Rat) * (2 : Rat) ^ (0 : Int)) ≤ -127 ∧ (2 : Rat) ^ (126 : Int) < ((3 : Nat) : Rat) * (2 : Rat) ^ (125 : Int) ∧
      ((3 : Nat) : Rat) * (2 : Rat) ^ (0 : Int) * (2 : Rat) ^ (-2 : Int) ≤ 1 ∧ (1 : Rat) < ((3 : Nat) : Rat) * (2 : Rat) ^ (0 : Int) * (2 : Rat) ^ (-1 : Int) ∧
      ((3 : Nat) : Rat) * (2 : Rat) ^ (0 : Int) * ((2 : Rat) ^ (-1 : Int) * (2 : Rat) ^ (-1 : Int)) ≤ 1 ∧
      (1 : Rat) < ((3 : Nat) : Rat) * (2 : Rat) ^ (0 : Int) * ((2 : Rat) ^ (0 : Int) * (2 : Rat) ^ (0 : Int)) := by decide +kernel
/-- R339, R349: VADD of tile 0 to itself doubles it, 1.0 in each element becoming 2.0. -/
theorem test_row_in_place :
    let o : RowOp := { rowOp 0 with td := 0, tb := 0, sd := 0x0E03 }
    let s : State := ({ sRowOp 0 with rowCur := some o }).tsetList 0 0 (List.replicate 32 0x3C00)
    ((List.range 32).all (fun i => decide ((after .rowRetire s).tget 0 i = pw 0x4000))) = true := by decide +kernel
theorem witness_RowUnitWorks_reduction :
    (rowOp 13).rm < 3 ∧ shWpr 0x0E83 ≤ 512 ∧ shRows 0x0E03 + 1 ≤ shElems 0x0E83 + 1 ∧ soundTile (sRowOp 14) 0 0x0E03 = true := by decide +kernel
theorem witness_RowUnitWorks_parity :
    let s : State := { sRowOp 0 with tiles := [(7, ⟨1, false⟩)] }
    (List.range (shWpr 0x0E03)).find? (fun i => !parOk (s.tget 0 i)) = some 7 ∧ s.freeToFail 0 7 = true := by decide +kernel

/-! ### Flumes -/

/-- End 3 sends, end 4 receives into a ring and end 5 into a tile; their peer is at 0x028007. -/
def cfgF : Tab Word := cfgWrites (cfgWrites (cfgWrites cfg0 0x0118 [0x1901, 0x8007, 0x0502, 0x2833, 4, 0, 1])
  0x0120 [0x1A00, 0x8007, 0x0602, 0x0033, 0, 0x1800, 1]) 0x0128 [0x1A02, 0x8007, 0x0602, 0x0033, 0, 0, 1]
def sEnds (e : Nat) (x : FEnd) : State := { s0 with cfg := cfgF }.setEnd e x
def opened : FEnd := { FEnd.init with st := .opened }
/-- R358: sub 0xF for SEND.W, sub 0xD for the others. -/
theorem witness_FlumeSends :
    endOwner cfgF 3 = 0 ∧ endDir cfgF 3 = true ∧ endMaxlen cfgF 3 = 3 ∧ ok s0 [(0xFF03, 0, .sendW 0 3 0, { reads := [8] }),
        (0xFFFF, 0, .sendW 0 31 7, { reads := [15] }), (0xFD73, 0, .sendE 0 3, {}), (0xFD8F, 0, .sendE 0 31, {}),
        (0xFD91, 0x0003, .sendC 0 1 3, { words := 2, writes := [1] })] = true ∧
      (s0.fend 3).st = .unbound ∧ endDir cfgF 4 = false ∧
      ((sEnds 3 { opened with credit := 1, landing := [1, 2, 3] }).fend 3).landing.length ≠ endMaxlen cfgF 3 + 1 ∧
      ((sEnds 3 { opened with resv := true, landing := [1, 2, 3, 4] }).fend 3).landing.length = endMaxlen cfgF 3 + 1 ∧
      ((sEnds 3 { opened with st := .closed, lost := true }).fend 3).lost = true ∧
      (sEnds 3 { opened with resv := true, landing := [1] }).flumeOut.length < 8 ∧
      8 ≤ ({ sEnds 3 { opened with resv := true, landing := [1] } with flumeOut := List.replicate 8 ⟨0, 0, 0, []⟩ } : State).flumeOut.length := by
  decide +kernel
theorem witness_FlumeReceives :
    endOwner cfgF 4 = 0 ∧ endDir cfgF 4 = false ∧ endTile cfgF 4 = false ∧ endSlots cfgF 4 = 3 ∧ endTile cfgF 5 = true ∧
      endOwner cfgF 5 = 0 ∧ endDir cfgF 5 = false ∧ endSlots cfgF 5 = 3 ∧
      ((sEnds 4 { opened with credit := 4, avail := 1, take := 3, held := some 2 }).fend 4).held = some 2 ∧
      ok (sEnds 4 opened) [(0xFDA2, 0x0004, .recv 0 2 4, { words := 2, writes := [2] }),
        (0xFDB2, 0x0004, .recvC 0 2 4, { words := 2, writes := [2, 3] }), (0xFDC4, 0, .fdone 0 4, {}), (0xFDDF, 0, .fdone 0 31, {})] = true ∧
      ((sEnds 5 { opened with armed := true, landed := 4, credit := 4 }).fend 5).landed = endSlots cfgF 5 + 1 ∧
      (sEnds 5 { opened with st := .peerClosed, armed := true, landed := 4 }).landWrites = [] := by
  decide +kernel
/-- An unbound end, an end of another thread, and a send end; a tile end that is not ARMED; ends that nothing will reach; four results
pending; a held slot with a credit to return. -/
theorem witness_FlumeReceives_checks :
    let p : Pre := { words := 2, writes := [2] }
    let full := (sEnds 4 opened).modThr 0 (fun th => { th with ops := List.replicate 4 opMul })
    (s0.fend 4).st = .unbound ∧ endOwner (cfgWrites cfgF 0x0120 [0x1A40]) 4 ≠ 0 ∧ endDir cfgF 3 = true ∧ endTile cfgF 5 = true ∧
      ((sEnds 5 opened).fend 5).armed = false ∧ ((sEnds 5 { opened with st := .closed, lost := true }).fend 5).lost = true ∧
      (sEnds 4 { opened with st := .peerClosed }).ringWrites = [] ∧ ((sEnds 4 { opened with st := .closed }).fend 4).st = .closed ∧
      ok full [(0xFDA6, 0x0004, .recv 0 6 4, { words := 2, writes := [6] })] = true ∧ ((full.thr 0).ops.filter (fun o => o.dests ≠ [])).length ≥ 4 ∧
      ((sEnds 4 { opened with avail := 1, credit := 1, held := some 2 }).fend 4).credit - 1 ≤ (endSlots cfgF 4 + 1) / 2 ∧
      ok (sEnds 3 opened) [(0xFDA2, 0x0003, .recv 0 2 3, p)] = true ∧ ok s0 [(0xFDA2, 0x0004, .recv 0 2 4, p)] = true := by decide +kernel
/-- R58: with four results pending RECV waits at issue, though a message is there. -/
theorem test_recv_full :
    let s := sp 0xFDA6 0x0004 ((sEnds 4 { opened with avail := 1 }).modThr 0 (fun th => { th with ops := List.replicate 4 opMul }))
    ((after (.recv 0 6 4) s).thr 0).waiting = some (.recv 0 6 4) ∧ ((after (.recv 0 6 4) s).fend 4).avail = 1 := by decide +kernel
/-- R364: with nothing to take RECVC leaves rd + 1 as it stands, its failing parity too. -/
theorem test_recvC_keeps :
    let s := sp 0xFDB2 0x0004 ((sEnds 4 opened).modThr 0 (fun th => { th with regs := Tab.put th.regs 3 ⟨1, false⟩ }))
    ((after (.recvC 0 2 4) s).thr 0).regP 3 = ⟨1, false⟩ ∧ ((after (.recvC 0 2 4) s).thr 0).pc = 0x0102 := by decide +kernel
/-- Tile 0 has 4 rows of 4 words, as end 5 needs. -/
def sLand : State := (sEnds 5 opened).modThr 0 (fun th => { th with shapes := [(0, 0x0603), (1, 0x0602), (2, 0x0403)] })
theorem witness_FlumeEndCommands :
    sLand.flumeOut.length < 8 ∧ ok sLand [(0xFDE0, 0x0005, .fclose 0 5, { words := 2 }),
        (0xFDE1, 0x0005, .fland 0 5 0, { words := 2, uses := [0x0F] }), (0xFDE2, 0x0205, .finfoS 0 2 5, { words := 2, writes := [2, 3] }),
        (0xFDE3, 0x0205, .finfoN 0 2 5, { words := 2, writes := [2, 3] }), (0xFDE4, 0x0E1F, .finfoP 0 14 31, { words := 2, writes := [14, 15] })] = true ∧ (sLand.thr 0).park = none ∧ (∀ n < 4, (sLand.lane n).phase ≠ .message ∧ (sLand.lane n).phase ≠ .reserved) ∧
      sLand.ringWrites = [] ∧ sLand.landWrites = [] ∧
      tileOwner sLand.cfg ((sLand.thr 0).phys 0) = some 0 ∧ shRows 0x0603 = endSlots cfgF 5 ∧ endMaxlen cfgF 5 < shWpr 0x0603 ∧
      sLand.poisoned 0 = false ∧ (sLand.setPoison 0 true).poisoned 0 = true ∧ (s0.fend 5).st = .unbound ∧
      ok s0 [(0xFDE0, 0x0005, .fclose 0 5, { words := 2 }), (0xFDE1, 0x0005, .fland 0 5 0, { words := 2, uses := [0x0F] }),
        (0xFDE2, 0x0205, .finfoS 0 2 5, { words := 2, writes := [2, 3] })] = true ∧
      ok (sEnds 3 opened) [(0xFDE1, 0x0003, .fland 0 3 0, { words := 2, uses := [0x0F] })] = true ∧ shRows 0x0602 ≠ endSlots cfgF 5 ∧ shWpr 0x0403 ≤ endMaxlen cfgF 5 := by decide +kernel
def peers (e f : Nat) : Bool := decide (endPeer cfgF e = 0x028007) && decide (endPend cfgF e = f)
theorem witness_FlumePacketsIn :
    s0.live = true ∧ s0.core ≠ .clearing ∧ s0.warm = none ∧ peers 4 6 = true ∧ peers 5 6 = true ∧ peers 3 5 = true ∧
      ((sEnds 4 { opened with seq := 4, credit := 3 }).fend 4).credit < endSlots cfgF 4 + 1 ∧ [1, 2, 3, (4 : Word)].length ≤ endMaxlen cfgF 4 + 1 ∧
      [1, 2, 3, (4 : Word)].length ≤ 62 ∧
      (5 : Word) = ((sEnds 4 { opened with seq := 4, credit := 3 }).fend 4).seq + 1 ∧
      ((sEnds 5 { opened with armed := true }).fend 5).armed = true ∧ endDir cfgF 3 = true ∧ (64 : Word).toNat ≤ 64 ∧
      (s0.thr 0).park = none ∧ (∀ n < 4, (s0.lane n).phase ≠ .message ∧ (s0.lane n).phase ≠ .reserved) ∧
      endPeer cfgF 3 = 0x028007 ∧ (((sEnds 3 { opened with seq := 70 }).fend 3).seq - 7).toNat < 64 ∧
      (∀ n < 3, endDir cfgF n = false) := by decide +kernel
def msg4 : InMsg := ⟨4, 3, 5, [1, 2, 3, 4]⟩
def msg5 : InMsg := ⟨5, 3, 5, [1, 2, 3, 4]⟩
theorem witness_FlumeTransport_writes :
    let r : State := { sEnds 4 opened with ringWrites := [msg4] }
    let w : State := { sEnds 5 { opened with armed := true, shape := 0x0603 } with landWrites := [msg5] }
    r.runs = true ∧ w.runs = true ∧ r.ringWrites.find? (fun m => m.e = 4) = some msg4 ∧ slotAddr r.cfg 4 3 + 6 ≤ 65536 ∧
      w.landWrites.find? (fun m => m.e = 5) = some msg5 ∧ msg5.place * shWpr 0x0603 + 4 ≤ 512 ∧ (w.fend 5).armed = true ∧
      tileOwner w.cfg (w.fend 5).phys = some (endOwner w.cfg 5) ∧ tileOwner ({ w with cfg := [] } : State).cfg (w.fend 5).phys = none := by decide +kernel
theorem witness_FlumeTransport_stall :
    let s := (sEnds 3 { opened with landing := [1], stall := 1024 }).modThr 0 (fun th => th.parked (.sendE 3) (.sendE 0 3) 1)
    endOwner s.cfg 3 = 0 ∧ (s.thr 0).st = .parked ∧ (s.thr 0).park = some ⟨.sendE 3, .sendE 0 3⟩ ∧ (s.fend 3).resv = false ∧
      (s.thr 0).sync = none ∧ 2 ^ endStall s.cfg 3 ≤ (s.fend 3).stall := by decide +kernel
theorem witness_FlumeTransport_stillness :
    let s : State := { wth (fun th => th.parked (.wait 3) (.wait 0 3) 1) with stillCtr := 64 }
    64 ≤ s.stillCtr ∧ s.stillRaised = false ∧ s.isStill = true ∧ s.notices.length < 16 := by decide +kernel

/-! ### The skidder -/

/-- Lane 0 belongs to thread 0. A descriptor copies 2 rows of 12 words from 0x0800 to 0x0900. -/
def cfgS : Tab Word := cfgWrites cfgF 0x0200 [0x40, 0x41]
def dCopy (w0 : Word) : List Word := [w0, 0x0540, 0x0802, 0x0903, 0, 3, 1, 0, 0x040B, 20, 16, 0, 0x0710, 0x0700, 0, 0]
def lane0 (ph : LanePhase) (w0 : Word) : Lane := { Lane.init with st := .running, daddr := 0x0500, pc := 0x0100, desc := dCopy w0, phase := ph }
def sSkid (l : Lane) : State := ({ s0 with cfg := cfgS }.msetList 0x0500 (dCopy 0xC0)).setLane 0 l
theorem witness_SkidderCommands :
    laneEn cfgS 0 = true ∧ laneOwner cfgS 0 = 0 ∧ laneOwner cfgS 1 = 1 ∧ ok (sSkid Lane.init) [(0xFE61, 0x0000, .skid 0 0 1, { words := 2, reads := [1], long := true }),
        (0xFE72, 0x0001, .skstat 0 2 1, { words := 2, writes := [2, 3] }), (0xFE83, 0, .skstop 0 3, {}), (0xFE80, 0, .skstop 0 0, {})] = true ∧
      ((sSkid (lane0 .move 0xC0)).lane 0).st = .running ∧ ((sSkid (lane0 .move 0xC0)).lane 0).op = none ∧
      (sSkid (lane0 .complete 0xC0)).laneTags 0 = 0 ∧ dFlm (dCopy 0xC0) = false := by decide +kernel
def opSkid : LongOp := ⟨7, 6, 0x0100, [], [], false, 0, false⟩
def sTake (w0 : Word) : State :=
  ((sSkid { lane0 .takeUp w0 with op := some 7 }).msetList 0x0500 (dCopy w0)).modThr 0 (fun th => { th with ops := [opSkid] })
theorem witness_SkidderRuns_takeUp :
    (sTake 0xC0).runs = true ∧ ((sTake 0xC0).lane 0).st = .running ∧ ((sTake 0xC0).lane 0).op = some opSkid.id ∧
      ((sTake 0xC0).thr 0).ops.find? (fun q => q.id = 7) = some opSkid ∧ (sTake 0xC0).takeUpFault 0 0x0500 (dCopy 0xC0) = none ∧
      (sTake 0xC0).takeUpFault 0 0x0500 (dCopy 0x80C0) = some 0x04 := by decide +kernel
theorem witness_SkidderRuns_seals :
    (dDfar (dCopy 0xC0) = false ∧ dSfar (dCopy 0xC0) = false) ∧ ((sSkid (lane0 .sealInit 0xC0)).lane 0).phase = .sealInit ∧
      ((sSkid (lane0 .verifyRead 0xC0)).lane 0).phase = .verifyRead ∧ ((sSkid (lane0 .sealWrite 0xC0)).lane 0).phase = .sealWrite := by
  decide +kernel
/-- Lane 0 with the first row read. -/
def lRead (w0 : Word) : Lane := { lane0 .move w0 with rd := 2, src := (List.range 12).map (fun i => (i, wd (3 * i))) }
def dst0 : CoreId := (farDst (BitVec.ofNat 52 (dstBase (dCopy 0x20)))).getD 0
theorem witness_SkidderRuns_write :
    ((writePieces (dCopy 0xC0))[0]?).any (fun p => (lRead 0xC0).pieceWords p != none &&
        decide (dstBase (dCopy 0xC0) + p.row * dDstride (dCopy 0xC0) + p.col + 12 ≤ 65536)) = true ∧
      dDfar (dCopy 0x20) = true ∧ ((writePieces (dCopy 0x20))[0]?).any (fun p => (lRead 0x20).pieceWords p != none) = true ∧
      (sSkid (lRead 0x20)).freeMov 0 = some 0 ∧ farDst (BitVec.ofNat 52 (dstBase (dCopy 0x20))) = some dst0 := by decide +kernel
theorem witness_SkidderRuns_read :
    ((writePieces (dCopy 0xC0))[0]?).all (fun q => decide ((lane0 .move 0xC0).pieceWords q = none)) = true ∧
      ((readPieces (dCopy 0xC0))[0]?).any (fun p => decide (∀ i < p.n, parOk ((sSkid (lane0 .move 0xC0)).mget (0x0802 + i)) = true)) = true ∧
      ((readPieces (dCopy 0xC0))[0]?).any (fun p => decide (0 < p.n)) = true ∧ dSfar (dCopy 0x10) = true ∧
      ((readPieces (dCopy 0x10))[0]?).isSome = true ∧ (farDst (BitVec.ofNat 52 (srcBase (dCopy 0x10)))).isSome = true := by decide +kernel
theorem witness_SkidderRuns_answers :
    Tab.find ({ sSkid (lane0 .move 0x10) with movTags := [(0, .read 0 0 12)] } : State).movTags 0 = some (.read 0 0 12) ∧
      (List.replicate 12 (0 : Word)).length ≤ 57 ∧
      Tab.find ({ sSkid (lane0 .sealWrite 0x20) with movTags := [(15, .write 0)] } : State).movTags 15 = some (.write 0) := by decide +kernel
/-- A descriptor that reports on flume end 3. -/
def lFlm (ph : LanePhase) : Lane := { lane0 ph 0 with desc := [0x4200, 0x77, 0, 0, 0, 0, 0, 0x30], msgWait := 1024 }
theorem witness_SkidderRuns_ends :
    (sSkid (lane0 .complete 0xC0)).laneTags 0 = 0 ∧ dFlm (dCopy 0xC0) = false ∧ dFlm (lFlm .complete).desc = true ∧
      dFend (lFlm .complete).desc = 3 ∧ (((sSkid (lFlm .message)).setEnd 3 { opened with credit := 1 }).fend 3).landing = [] ∧
      2 ^ endStall cfgS 3 ≤ (lFlm .message).msgWait ∧
      ((sSkid (lFlm .reserved)).lane 0).phase = .reserved ∧ ({ lane0 .complete 0xC0 with stopReq := true } : Lane).stopReq = true := by decide +kernel

/-! ### Remote requests, threads between instructions, cruise and notices -/

def idCore : CoreId := 0x02BB5E
/-- An address of this core's local memory, in compartment 0. -/
def ownAddr (a : Nat) : FarAddr := BitVec.ofNat 52 (2 ^ 42 + idCore.toNat % 2 ^ 15 * 65536 + a)
theorem witness_RemoteAccess :
    let s : State := { s0 with ident := idCore }
    s.live = true ∧ s.core ≠ .clearing ∧ s.warm = none ∧ farSpace (ownAddr 0x3FE0) = true ∧
      farIndex (ownAddr 0x3FE0) = s.ident.toNat % 2 ^ 15 ∧
      farWord (ownAddr 0x3FE0) = 0x3FE0 ∧ rangeCheck cfg0 0x02C1 0x3FE0 (0x3FE0 + 32 - 1) [.r] = none ∧
      rangeCheck cfg0 0x02C1 0x3FE0 (0x3FE0 + 32 - 1) [.w] = none ∧ rangeCheck cfg0 0x02C1 0x3FE1 (0x3FE1 + 32 - 1) [.w] ≠ none ∧
      (31 : BitVec 6).toNat < 32 ∧ farIndex (ownAddr 0x3FE0) ≠ (0 : CoreId).toNat % 2 ^ 15 ∧
      ({ s0 with core := .faulted } : State).live = true := by decide +kernel
/-- Thread 0 parked at an instruction whose words stand at its PC; end 4 has a message, and EVPEND holds the event 3. -/
def sPark (k : ParkKind) (i : Instr) (w v : Word) : State :=
  sp w v (sEnds 4 { opened with avail := 1 } |>.modThr 0 (fun th => (th.setCtl 0x09 0x0008).parked k i 1))
theorem witness_ThreadEvents_park :
    ∀ x ∈ ([(.wait 3, .wait 0 3, 0xFA33, 0), (.settle [7], .settle 0 0, 0xFA10, 0), (.settle [7], .saveh 0, 0xF608, 0),
        (.array 0, .mstat 0 0 0 0 0, 0xFE00, 0), (.sendE 3, .sendE 0 3, 0xFD73, 0), (.recv 4, .recv 0 2 4, 0xFDA2, 0x0004)] :
        List (ParkKind × Instr × Word × Word)),
      let s := sPark x.1 x.2.1 x.2.2.1 x.2.2.2
      s.runs = true ∧ (s.thr 0).st = .parked ∧ (s.thr 0).park = some ⟨x.1, x.2.1⟩ ∧ (s.thr 0).haltReq = none ∧ (s.thr 0).rep = none ∧
        (s.thr 0).ops = [] ∧ (s.thr 0).held = [] ∧ x.2.1 = decodeInstr 0 x.2.2.1 x.2.2.2 ∧ s.flumeOut.length < 8 ∧ endTile s.cfg 4 = false ∧
        (s.fend 4).held = none ∧ s.choose 0 = none ∧ bit ((s.thr 0).ctlW 0x09) 3 = true ∧ (s.thr 0).lfill = true := by decide +kernel
def held0 : Held := ⟨7, .add, [.val 1, .val 2], [5], []⟩
theorem witness_ThreadEvents_held :
    let s := wth (fun th => { th with held := [held0] })
    (s.thr 0).held.find? (fun h => h.vals.isSome && decide (h.after = [])) = some held0 ∧ held0.vals = some [1, 2] := by decide +kernel
theorem witness_ThreadEvents_waiting :
    let s := sp 0x0123 0 (wth (fun th => { th with waiting := some (.add 0 1 2 3) }))
    decodeInstr 0 0x0123 0 = .add 0 1 2 3 ∧ (s.thr 0).waiting = some (.add 0 1 2 3) ∧ (s.thr 0).st = .running ∧ (s.thr 0).sync = none ∧
      (s.thr 0).service = none ∧ (s.thr 0).owes = false ∧ (s.thr 0).haltReq = none ∧ s.choose 0 = none ∧ (s.thr 0).skipBreak = false ∧
      parOk ((s.thr 0).ctlP 0x0C) = true ∧ (∀ r ∈ [2, 3], parOk ((s.thr 0).regP ((s.thr 0).regNo r)) = true) ∧
      s.regsFree 0 { reads := [2, 3], writes := [1] } = true ∧ (s.thr 0).mustSpill { writes := [1] } = false := by decide +kernel
theorem witness_ThreadEvents_halt :
    let c : AtpCmd := ⟨5, [0x31, 1, 2, 0]⟩
    let s : State := { wth (fun th => { th with haltReq := some .dbgHalt }) with atpCur := some (c, .halt 0) }
    (s.thr 0).held = [] ∧ (s.thr 0).haltReq ≠ none ∧ (s.thr 0).st = .running ∧ (s.thr 0).rep = none ∧ (s.thr 0).ops = [] ∧
      (s.thr 0).service = none ∧ s.atpCur = some (c, .halt 0) ∧ ({ s with atpCur := some (c, .stop 0 50 none) } : State).live = true := by
  decide +kernel
/-- R474: the time-out counts from the halt: HALT_POINT notes the time. -/
theorem test_stop_counts_from_halt :
    let c : AtpCmd := ⟨5, [0x19, 1, 2, 2, 0, 50]⟩
    let s : State := { wth (fun th => { th with haltReq := some .threadStop }) with atpCur := some (c, .stop 0 50 none), mclk := 900 }
    (after (.haltPoint 0) s).atpCur = some (c, .stop 0 50 (some 900)) ∧ ((after (.haltPoint 0) s).thr 0).st = .halted := by decide +kernel
def pkt0 : Packet := ⟨0, idCore, 0x028007, [0x0C64, 5, 1, 2]⟩
theorem witness_CruiseAndNotices :
    let s : State := { s0 with cruiseNext := 16383, cruiseAge := 63, notices := [⟨0x84, 7, [1, 2]⟩], mem := [(65535, ⟨1, false⟩)], ident := idCore }
    s.live = true ∧ s.core ≠ .clearing ∧ 63 ≤ s.cruiseAge ∧ parOk (s.mget (4 * s.cruiseNext + 3)) = false ∧
      parOk (s0.mget (4 * s0.cruiseNext)) = true ∧ s.notices.length < 16 ∧ s0.cruiseAge < 63 ∧ bit s.ready 0 = true ∧
      malformed s.ident [7, 0, 0] = true ∧ malformed s.ident [5, 0xBB5E, 2, 0, 0x0100] = false ∧
      fld (0x0100 : Word) 9 8 ≠ 0 ∧ bit ({ s with ready := 0 } : State).ready 0 = false ∧
      pkt0.payload.length ≤ 64 ∧ pkt0.dst = s.ident ∧ pkt0.cls.toNat < 7 ∧ pkt0.words.length = 8 := by decide +kernel

/-! ### Clocks and resets -/

def cmdC : AtpCmd := ⟨0x028007, [0x50, 1, 2, 1, 2]⟩
def acmd0 : AtpCmd := ⟨0x028007, [0x22, 1, 2, 1, 100]⟩
theorem witness_ClockEvents_windows :
    let s : State := { s0 with clk := { Clk.init with root := 0, monitorOn := true } }
    s.live = true ∧ s.clk.root < 2 ∧ s.clk.monitorOn = true ∧ 10 * apart 332 320 ≤ 16 * 8 ∧ 16 * 8 < 10 * apart 333 320 ∧
      100 * apart 266 256 ≤ 128 * 8 ∧ 128 * 8 < 100 * apart 267 256 ∧ Tab.get 0 s.trim 3 = 0 ∧ s.notices.length < 16 := by decide +kernel
theorem witness_ClockEvents_select :
    let s : State := { s0 with clk := { Clk.init with selWait := some 1 }, atpCur := some (cmdC, .clock) }
    s.clk.selWait = some 1 ∧ s.atpCur = some (cmdC, .clock) ∧ s.live = true := by decide +kernel
theorem witness_ClockEvents_bringup :
    ∀ b ∈ [Bringup.tryA, .tryB],
      let s : State := { s0 with clk := { Clk.init with bringup := b, tryCycles := 4096 } }
      s.live = true ∧ 4096 ≤ s.clk.tryCycles ∧ s.notices.length < 16 := by decide +kernel
/-- A count of ACLK against MCLK with the exponent 8, one of sources that other clocks count, and one of a reference that never comes. -/
theorem witness_ClockEvents_count :
    let job (j : FreqJob) : State := { wth (fun th => { th with service := some ⟨4, 0x0208⟩ }) with
      clk := { Clk.init with freq := some j }, atpCur := some (cmdC, .freq) }
    (job ⟨none, 0x0223, true, 600, 512, 256⟩).live = true ∧ ((job ⟨some 0, 0x0208, true, 0, 0, 0⟩).thr 0).service = some ⟨4, 0x0208⟩ ∧
      (0x0223 : Word).toNat % 8 = 3 ∧ (0x0223 : Word).toNat / 8 % 8 = 4 ∧ (0x0223 : Word).toNat / 64 % 32 = 8 ∧ (0x0208 : Word).toNat / 8 % 8 = 1 ∧
      (0x0210 : Word).toNat / 8 % 8 = 2 ∧ 2 ^ (8 + 4) ≤ (⟨none, 0x0210, false, 4096, 0, 0⟩ : FreqJob).age := by decide +kernel
theorem witness_TickCounts :
    let s : State := { wth (fun th => { th.setDla 1 with notifyAge := some 65535 }) with
      clk := { Clk.init with freq := some ⟨none, 0x0223, true, 600, 512, 255⟩ }, atpCur := some (acmd0, .commit 100), mclk := 100, merge := [mFar] }
    s.pending = [] ∧ s.live = true ∧ s.runs = true ∧ (s.thr 0).dla = 1 ∧ s.commitBusy = [] ∧
      ({ s with clk := { Clk.init with switch := some ⟨1, 0, 4, none, true, false⟩ } } : State).divSwitch = true ∧
      ({ s with clk := { Clk.init with switch := some ⟨1, 0, 4, none, true, false⟩ } } : State).live = false := by decide +kernel
theorem witness_ClockEvents_arrays :
    let a := (wth (fun th => { th with service := some ⟨2, 0⟩ })).modArr 0 (fun x => { x with testing := some 0 })
    let b : State := { s0 with ready := 0x003F, cycle := 1200 }
    (a.arr 0).testing = some 0 ∧ (a.thr 0).service = some ⟨2, 0⟩ ∧ a.warm = none ∧ (b.arr 0).testing = none ∧ bit b.ready 6 = false ∧
      1200 ≤ b.cycle ∧ b.pins.rstWarmN = true := by decide +kernel
/-- Both arrays pass in one cycle: the second joins the notice of the first. -/
def sBoth : State := { s0 with ready := 0x0439, readySent := 0x0039, cycle := 1200 }
theorem witness_ClockEvents_notice :
    let u := after (.arraySelfTestDone 0 true) sBoth
    bit sBoth.ready 0 = true ∧ sBoth.notices = [] ∧ u.notices = [] ++ [⟨0x80, 0, [0x0579, 0x0140]⟩] ∧ u.readyMark = some (u.cycle, 0) ∧
      (u.arr 1).testing = none ∧ bit u.ready 7 = false := by decide +kernel
/-- R506: the row of the table for cycle 1,200: one notice, 0x07F9 and 0x03C0. -/
theorem test_both_arrays :
    (after (.arraySelfTestDone 1 true) (after (.arraySelfTestDone 0 true) sBoth)).notices = [⟨0x80, 0, [0x07F9, 0x03C0]⟩] := by decide +kernel
theorem witness_ClockEvents_functions :
    let s (c m : Nat) : State := { s0 with core := .clearing, ready := 0x0400, longClear := true, cycle := c, mclk := m }
    (s 2048 64).live = true ∧ (s 2048 64).warm = none ∧ (s 2048 64).pins.rstWarmN = true ∧ bit (s 2048 64).ready 2 = false ∧
      2048 ≤ (s 2048 64).cycle ∧ 64 ≤ (s 2048 64).mclk ∧ ¬ 2048 ≤ (s 2047 63).cycle := by decide +kernel
theorem witness_ClockSwitchEnds :
    ∀ w ∈ [(⟨0, 2, 2, none, false, false⟩ : Switch), ⟨1, 0, 4, none, true, false⟩, ⟨2, 1, 0, none, true, false⟩, ⟨2, 0, 0, none, false, true⟩],
      let s : State := { s0 with clk := { Clk.init with switch := some w }, atpCur := some (cmdC, .clock) }
      s.pins.pwrOk = true ∧ s.pins.rstColdN = true ∧ s.clk.switch = some w ∧ s.clk.queue = [] ∧ s.warmDue = false ∧
        (s.thr 0).takesItems = true ∧ s.notices.length < 15 ∧ s.atpCur = some (cmdC, .clock) := by decide +kernel
theorem witness_ColdResets :
    s0.pins.pwrOk = true ∧ s0.pins.rstColdN = true ∧ State.reset.pins.pwrOk = true ∧ State.reset.pins.rstColdN = false ∧
      ({ s0 with pins := ⟨false, true, true⟩ } : State).pins.pwrOk = false := by decide
def acmd (op : Word) (ps : List Word) : AtpCmd := ⟨0x028007, [op, 1, 2, wd ps.length] ++ ps⟩
def asked (op : Word) (ps : List Word) (s : State) : State := { s with atpQ := [acmd op ps] }
/-- The command is the oldest one queued and passes the checks that every opcode shares. -/
def starting (op : Word) (ps : List Word) (s : State) : Bool := (asked op ps s).starts op.toNat (acmd op ps)
theorem witness_WarmResets :
    s0.pins.rstWarmN = true ∧ s0.live = true ∧ s0.warm = none ∧ starting 0x7E [] s0 = true ∧ starting 0x7F [] s0 = true ∧
      ({ s0 with pins := ⟨true, true, false⟩ } : State).pins.rstWarmN = false ∧
      ({ s0 with clk := { Clk.init with switch := some ⟨0, 2, 2, none, false, false⟩ } } : State).clk.switch ≠ none := by decide +kernel
theorem witness_WarmResets_drain :
    let s : State := { s0 with warm := some ⟨true, none, 256, false⟩, merge := [mFar], tags := [(3, .entry mFar)] }
    s.live = true ∧ s.warm = some ⟨true, none, 256, false⟩ ∧ (∃ e ∈ s.tags, e.2.isEntry = true) ∧ s.merge ≠ [] ∧
      ¬ 256 ≤ (⟨true, none, 255, false⟩ : Warm).age := by decide +kernel

/-! ### Atpolet -/

theorem witness_AtpoletStarts :
    s0.live = true ∧ s0.warm = none ∧ bit s0.ready 0 = true ∧ s0.atpQ.length < 8 ∧ s0.atpCur = none ∧
      (acmd 0x01 (List.replicate 60 0)).payload.length = 64 ∧ (asked 0x60 [] s0).atpQ.head? = some (acmd 0x60 []) ∧
      opcodeRow (acmd 0x60 []).opcode = none ∧ opcodeRow (acmd 0x30 [0]).opcode ≠ none ∧ (acmd 0x30 [0]).formBad = false ∧
      (⟨0, [0x30, 1, 2, 2, 0]⟩ : AtpCmd).formBad = true ∧ (asked 0x18 [0] { s0 with core := .idle }).atpCheck (acmd 0x18 [0]) ≠ none := by
  decide +kernel
theorem witness_AtpoletQueries :
    starting 0x01 [] s0 = true ∧ starting 0x02 [] s0 = true ∧ starting 0x48 [0x20, 48] s0 = true ∧ starting 0x48 [0x20, 49] s0 = true ∧
      starting 0x48 [0x20, 0] s0 = true ∧ starting 0x49 [0, 4] s0 = true ∧ starting 0x49 [0, 5] s0 = true ∧ starting 0x4A [7] s0 = true ∧
      starting 0x4A [8] s0 = true ∧ s0.nThr = 8 ∧ starting 0x58 [] s0 = true ∧ starting 0x59 [1, 0, 0, 8, 0, 0, 0, 0] s0 = true ∧
      starting 0x59 [1, 0, 0, 32, 0, 0, 0, 0] s0 = true ∧ bit s0.ready 10 = false ∧ bit (0x0448 : Word) 10 = true := by decide +kernel
def sIdle : State := { s0 with core := .idle }
/-- A load of nothing but thread 0. -/
def sImage : State := { s0 with core := .loading, declNew := [(0, 0), (4, 0)] }
theorem witness_LoadsAndBindings_load :
    starting 0x10 [0, 0, 0, 0, 0, 0, 0, 0, 0, 0] sIdle = true ∧ starting 0x11 [0, 0xFFFF, 7] sImage = true ∧
      starting 0x11 [0, 0xFFFF, 7, 8] sImage = true ∧ starting 0x11 [2, 0, 7] sImage = true ∧ starting 0x11 [1, 0x0305, 1, 2] sImage = true ∧
      cfgHas 0x0305 = true ∧ starting 0x11 [1, 0x0610, 1, 2] sImage = true ∧ starting 0x12 [] sImage = true ∧
      cfgHas 0x0FFF = false := by decide +kernel
theorem witness_LoadsAndBindings_end :
    sImage.loadRefusal = none ∧ ({ sImage with image := [(0x1000, 0x2000)] } : State).loadRefusal ≠ none ∧
      starting 0x12 [] { sImage with image := [(0x1000, 0x2000)] } = true := by
  decide +kernel
theorem witness_LoadsAndBindings_bind :
    starting 0x28 [3, 1, 0x8007, 2, 0x2833, 4, 0] s0 = true ∧ starting 0x28 [32, 1, 0x8007, 2, 0x2833, 4, 0] s0 = true ∧
      s0.bindRefusal 3 (cfgWrites s0.cfg 0x0118 [1, 0x8007, 2, 0x2833, 4, 0, 1]) = none ∧ starting 0x29 [31] s0 = true ∧
      starting 0x29 [32] s0 = true ∧ ((sEnds 3 opened).fend 3).st = .opened := by decide +kernel
def sTxn (m : Tab Word) : State := { s0 with txn := some m }
theorem witness_Transactions_stage :
    starting 0x20 [] s0 = true ∧ starting 0x23 [] (sTxn []) = true ∧ starting 0x21 [0x0000, 0x3F00, 0xE2C1] (sTxn []) = true ∧
      cfgStageable 0 = true ∧ cfgStageable 1 = true ∧ cfgStageable 0x0300 = true ∧ starting 0x21 [0x0FFF, 1] (sTxn []) = true ∧
      cfgStageable 0x0FFF = false ∧ (stageWords [] 0 [0x3F00, 0xE2C1]).length ≤ 256 := by decide +kernel
def sCommit (ops : List LongOp) : State :=
  { wth (fun th => { th with ops := ops }) with txn := some [(0, 0x3F01)], atpCur := some (acmd 0x22 [100], .commit 100), mclk := 100 }
theorem witness_Transactions_commit :
    starting 0x22 [0] (sTxn [(0, 0x3F01)]) = true ∧ starting 0x22 [100] (sTxn [(0, 0x3F01)]) = true ∧ (sCommit []).live = true ∧
      (sCommit []).warm = none ∧ 100 ≤ (sCommit []).mclk := by decide +kernel
theorem witness_Transactions_busy : (sCommit []).commitBusy = [] ∧ (sCommit [opMul]).commitBusy = [0] ∧
    (({ sCommit [opMul] with atpCur := some (acmd 0x22 [100], .late 0 2) }) : State).atpCur = some (acmd 0x22 [100], .late 0 2) := by decide +kernel
theorem witness_Transactions_check : stage3 (sTxn [(0, 0x3F01)]).result 0 8 none (sTxn [(0, 0x3F01)]).boundAfter = none ∧
    stage3 (sTxn [(0, 0x013F)]).result 0 8 none (sTxn [(0, 0x013F)]).boundAfter ≠ none := by decide +kernel
def stopped : State := wth (fun th => { th with st := .halted })
theorem witness_AtpoletThreads :
    starting 0x18 [0] (wth (fun th => { th with st := .ready })) = true ∧ starting 0x18 [8] s0 = true ∧ starting 0x19 [0, 50] s0 = true ∧
      starting 0x1A [0] s0 = true ∧ starting 0x1B [0] stopped = true ∧ starting 0x30 [0] s0 = true ∧ starting 0x30 [0] stopped = true ∧
      starting 0x31 [0] stopped = true ∧ starting 0x31 [0] s0 = true ∧ (s0.thr 7).st = .empty ∧
      stopped.live = true ∧ stopped.warm = none ∧ stopped.pendClasses 0 = 0 ∧ stopped.mclk < 0 + 50 ∧
      ({ stopped with atpCur := some (acmd 0x19 [0, 50], .stop 0 50 (some 0)) } : State).atpCur = some (acmd 0x19 [0, 50], .stop 0 50 (some 0)) := by
  decide +kernel
theorem witness_AtpoletDebug :
    [0, 1, 2, 3, 4, (5 : Word)].all (fun sp => starting 0x32 [sp, 0, 0, 48] stopped && starting 0x33 [sp, 0, 0, 7] stopped) = true ∧
      starting 0x32 [6, 0, 0, 1] stopped = true ∧ starting 0x32 [0, 0, 0, 49] stopped = true ∧ stopped.spaceSize 5 = 16 ∧
      dbgListed 5 511 = true ∧ dbgListed 5 512 = false ∧ dbgDenied 5 511 = false ∧ dbgListed 0 39 = true ∧ tileOwner stopped.cfg 0 = some 0 ∧
      starting 0x34 [0xE0, 0] s0 = true ∧ starting 0x34 [0x100, 0] s0 = true ∧ starting 0x35 [0x70, 5, 5] s0 = true ∧
      starting 0x35 [0x70, 6, 5] s0 = true ∧ starting 0x40 [0xFFFF, 1] s0 = true ∧ starting 0x40 [0xFFFF, 2] s0 = true ∧
      starting 0x40 [0, 49] s0 = true ∧ starting 0x41 [0xFFFF, 7] s0 = true ∧ starting 0x41 [0xFFFF, 7, 8] s0 = true ∧ bit s0.ready 2 = true := by
  decide +kernel
theorem witness_AtpoletClocks :
    [0, 1, 2, (3 : Word)].all (fun n => starting 0x50 [n] s0) = true ∧ [1, 2, 4, (5 : Word)].all (fun n => starting 0x51 [n] s0) = true ∧ s0.clk.root = 2 ∧ s0.clk.div = 2 ∧
      starting 0x52 [0x0208] s0 = true ∧ freqOk 0x0208 = true ∧ freqOk 0x0200 = false ∧ s0.clk.freq = none := by decide +kernel

end Sys2Proof.Tests
end

section
/-!
PROOFS. Calls and returns (R77 to R79): what CALL and RET do to a thread whose instruction is fetched and clear, and the fault at the
first and the last window.
-/
namespace Sys2Proof.Machine

/-! ## The commands -/

theorem exec_call (s : State) (t : Tid) (target : Word) : exec (.call t target) s = execCall t target s := rfl
theorem exec_callReg (s : State) (t : Tid) (rs : Reg) : exec (.callReg t rs) s = execCallReg t rs s := rfl
theorem exec_ret (s : State) (t : Tid) : exec (.ret t) s = execRet t s := rfl

/-! ## Threads that go on at an address -/

/-- Going on at an address and writing a control word commute. -/
theorem Thread.onTo_setCtl (th : Thread) (i : Nat) (w pc : Word) : (th.setCtl i w).onTo pc = (th.onTo pc).setCtl i w := by
  unfold Thread.onTo Thread.stepDone
  cases h : th.stepping
  all_goals simp only [Thread.setPc, Thread.setCtl, h, Bool.false_eq_true, if_true, if_false]

/-- An instruction that has written registers, given by number, at the end of its `n` words and goes on at an address. -/
theorem Thread.writes_fetched_onTo (th : Thread) (l : List (Nat × Word)) (n : Nat) (pc : Word) :
    ((th.fetched n).writes l).onTo pc = th.wroteTo l pc n := by
  unfold Thread.wroteTo
  rw [Thread.writes_eq, Thread.writes_eq _ (th.left n), Thread.setRegs_regs l (th.fetched n) (th.left n) rfl]
  rfl

/-- A precise fault of an instruction outside a repetition, after the slots of its `n` words (R420). -/
theorem State.faultP_fetched (s : State) (t n : Nat) (code aux : BitVec 8) (faddr : Word) (hr : (s.thr t).rep = none) :
    .next ((s.modThr t (fun th => th.fetched n)).faultP t code aux faddr) = s.faulted t code aux faddr n := by
  simp only [State.faultP, State.faulted, State.thr_modThr, Thread.fetched_rep, Thread.fetched_pc, hr]
  rfl

/-! ## Entering a window -/

/-- Below the last window a call writes the address of the following word to L7 of the next window, enters it and goes to its target
(R77). -/
theorem State.callTo_next (s : State) (t n : Nat) (target : Word) (hw : (s.thr t).wp < 3) :
    (s.modThr t (fun th => th.fetched n)).callTo t n target =
      s.modThr t (fun th => (th.wroteTo [(l7 ((s.thr t).wp + 1), th.pc + wd n)] target n).setCtl iWP (wd ((s.thr t).wp + 1))) := by
  have hge : ¬ (s.thr t).wp ≥ 3 := by omega
  simp only [State.callTo, State.finishAt, State.thr_modThr, State.modThr_modThr, Thread.fetched_wp, Thread.fetched_pc,
    Thread.onTo_setCtl, Thread.writes_fetched_onTo, if_neg hge]

/-- In the last window a call takes WINDOW_DEPTH (R79). -/
theorem State.callTo_last (s : State) (t n : Nat) (target : Word) (hr : (s.thr t).rep = none) (hw : (s.thr t).wp = 3) :
    .next ((s.modThr t (fun th => th.fetched n)).callTo t n target) = s.faulted t fWINDOW_DEPTH 1 0 n := by
  have hge : (s.thr t).wp ≥ 3 := by omega
  simp only [State.callTo, State.thr_modThr, Thread.fetched_wp, if_pos hge]
  exact s.faultP_fetched t n _ _ _ hr

/-- A clear CALL target16 does what a call does, after its two slots. -/
theorem execCall_clear (s : State) (t : Tid) (target : Word) (hc : s.clear t (callPre s t 2 []) = true)
    (hf : s.fetches t (.call t target) = true) :
    execCall t target s = .next ((s.modThr t (fun th => th.fetched 2)).callTo t 2 target) :=
  issued_clear _ _ _ _ _ hc hf (.inr rfl)

/-- A clear CALL rs does what a call does, to the address that it read in the window that was current before it (R77). -/
theorem execCallReg_clear (s : State) (t : Tid) (rs : Reg) (hc : s.clear t (callPre s t 1 [rs.val]) = true)
    (hf : s.fetches t (.callReg t rs) = true) :
    execCallReg t rs s = .next ((s.modThr t (fun th => th.fetched 1)).callTo t 1 ((s.thr t).reg rs.val)) := by
  unfold execCallReg
  rw [issued_clear _ _ _ _ _ hc hf (.inl rfl)]
  simp only [callPre, State.thr_modThr, Thread.fetched_reg]

/-! ## Leaving a window -/

/-- Above window 0 a clear RET goes to the address in L7 of the current window and leaves that window (R78). -/
theorem execRet_previous (s : State) (t : Tid) (hw : 0 < (s.thr t).wp) (hc : s.clear t { reads := [15], uses := [iWP] } = true)
    (hf : s.fetches t (.ret t) = true) :
    execRet t s = .next (s.modThr t (fun th => (th.setCtl iWP (wd (th.wp - 1))).jump (th.regP (l7 th.wp)).d 1)) := by
  have hne : ¬ (s.thr t).wp = 0 := by omega
  unfold execRet
  rw [issued_clear _ _ _ _ _ hc hf (.inl rfl)]
  simp only [State.finishAt, State.thr_modThr, State.modThr_modThr, Thread.fetched_wp, Thread.fetched_reg, if_neg hne]
  exact congrArg _ (State.modThr_congr _ _ _ _ rfl)

/-- In window 0 a clear RET takes WINDOW_DEPTH (R79). -/
theorem execRet_first (s : State) (t : Tid) (hw : (s.thr t).wp = 0) (hc : s.clear t { reads := [15], uses := [iWP] } = true)
    (hf : s.fetches t (.ret t) = true) : execRet t s = s.faulted t fWINDOW_DEPTH 2 0 := by
  unfold execRet
  rw [issued_clear _ _ _ _ _ hc hf (.inl rfl)]
  simp only [State.thr_modThr, Thread.fetched_wp, if_pos hw]
  exact s.faultP_fetched t 1 _ _ _ (s.clear_rep t _ hc)

/-! ## The obligation -/

/-- Settles O10: a clear CALL or RET has its effect after its slots (`issued_clear`), and that effect is a move between windows inside
the ends and a fault at them. -/
theorem callsAndReturns : Obligations.CallsAndReturns := by
  unfold Obligations.CallsAndReturns
  refine ⟨fun s t rs target hw => ⟨fun hc hf => ?call_next, fun hc hf => ?callReg_next⟩, fun s t hw hc hf => ?ret_previous,
    fun s t rs target => ⟨fun hw hc hf => ?call_last, fun hw hc hf => ?callReg_last, fun hw hc hf => ?ret_first⟩⟩
  case call_next =>
    rw [exec_call, execCall_clear s t target hc hf, s.callTo_next t 2 target hw]
    rfl
  case callReg_next =>
    rw [exec_callReg, execCallReg_clear s t rs hc hf, s.callTo_next t 1 _ hw]
    rfl
  case ret_previous =>
    rw [exec_ret]
    exact execRet_previous s t hw hc hf
  case call_last =>
    have hc' : s.clear t (callPre s t 2 []) = true := by rw [callPre, hw]; exact hc
    rw [exec_call, execCall_clear s t target hc' hf]
    exact s.callTo_last t 2 target (s.clear_rep t _ hc) hw
  case callReg_last =>
    have hc' : s.clear t (callPre s t 1 [rs.val]) = true := by rw [callPre, hw]; exact hc
    rw [exec_callReg, execCallReg_clear s t rs hc' hf]
    exact s.callTo_last t 1 _ (s.clear_rep t _ hc) hw
  case ret_first =>
    rw [exec_ret]
    exact execRet_first s t hw hc hf

end Sys2Proof.Machine
end

section
/-!
PROOFS. ADC and SBC (R110): the two words that each forms from its sources, and what a clear ADC or SBC writes.
-/
namespace Sys2Proof.Machine

/-! ## The commands -/

theorem exec_adc (s : State) (t : Tid) (rd rs rc : Reg) : exec (.adc t rd rs rc) s = execAdc t rd rs rc s := rfl
theorem exec_sbc (s : State) (t : Tid) (rd rs rc : Reg) : exec (.sbc t rd rs rc) s = execSbc t rd rs rc s := rfl

/-! ## The words formed -/

/-- Below 2^17 the carry out of a word is all that is left of a number above bit 15. -/
theorem bw_carry_eq {n : Nat} (h : n < 131072) : bw (decide (n ≥ 65536)) = wd (n / 65536) := by
  by_cases hc : 65536 ≤ n
  · have hq : n / 65536 = 1 := by omega
    simp [bw, wd, hc, hq]
  · have hq : n / 65536 = 0 := by omega
    simp [bw, wd, hc, hq]

/-- ADC forms the low word of the sum and the word above it: a sum of two words and a bit is below 2^17. -/
theorem adcOp_eq (a b c : Word) :
    adcOp a b c = (wd (a.toNat + b.toNat + c.toNat % 2), wd ((a.toNat + b.toNat + c.toNat % 2) / 65536)) :=
  congrArg (Prod.mk _) (bw_carry_eq (by omega))

/-- SBC forms the difference of `a` and the sum `b + c[0]`, which does not wrap, and the borrow by comparing with that sum. -/
theorem sbcOp_eq (a b c : Word) :
    sbcOp a b c = (wd (a.toNat + 131072 - (b.toNat + c.toNat % 2)), if a.toNat < b.toNat + c.toNat % 2 then 1 else 0) := by
  have hbit : (c &&& 1).toNat = c.toNat % 2 := by simp [BitVec.toNat_and, Nat.and_one_is_mod]
  have hdiff : a - b - (c &&& 1) = wd (a.toNat + 131072 - (b.toNat + c.toNat % 2)) := by
    apply BitVec.eq_of_toNat_eq
    rw [BitVec.toNat_sub, BitVec.toNat_sub, hbit, wd, BitVec.toNat_ofNat]
    omega
  rw [sbcOp, hdiff]
  simp only [bw, decide_eq_true_eq]

/-! ## Clear instructions with a carry -/

/-- A clear instruction of two words that reads three registers and writes the first and the last of them writes the results of its
operation there, in this order. -/
theorem execAlu_carry_clear (i : Instr) (t : Tid) (op : Alu) (rd rs rc : Reg) (s : State)
    (hc : s.clear t { words := 2, reads := [rd.val, rs.val, rc.val], writes := [rd.val, rc.val] } = true)
    (hf : s.fetches t i = true) :
    execAlu i t op [rd, rs, rc] [rd, rc] 2 false s =
      s.did t ([rd.val, rc.val].zip (op.eval [(s.thr t).reg rd.val, (s.thr t).reg rs.val, (s.thr t).reg rc.val])) 2 :=
  execAlu_clear i t op [rd, rs, rc] [rd, rc] 2 false s
    (State.clear_congr s t _ (aluPre op [rd.val, rs.val, rc.val] [rd.val, rc.val] 2 false) hc rfl rfl rfl rfl rfl rfl rfl rfl rfl)
    hf (.inr rfl)

/-! ## The obligation -/

/-- Settles O7: a clear ADC or SBC writes the two words of its operation (`execAlu_carry_clear`), and those words are the sum and its
carry (`adcOp_eq`) or the difference and its borrow (`sbcOp_eq`). -/
theorem carryResults : Obligations.CarryResults := by
  unfold Obligations.CarryResults
  intro s t rd rs rc hc
  refine ⟨fun hf => ?adc, fun hf => ?sbc⟩
  case adc =>
    rw [exec_adc, execAdc, execAlu_carry_clear _ t .adc rd rs rc s hc hf]
    simp only [Alu.eval, List.getD_cons_zero, List.getD_cons_succ, adcOp_eq, List.zip_cons_cons, List.zip_nil_right]
  case sbc =>
    rw [exec_sbc, execSbc, execAlu_carry_clear _ t .sbc rd rs rc s hc hf]
    simp only [Alu.eval, List.getD_cons_zero, List.getD_cons_succ, sbcOp_eq, List.zip_cons_cons, List.zip_nil_right]

end Sys2Proof.Machine
end
